-- ==== Sys2Proof/Word.lean ====
section
/-! DEFINITION. The word types of the OTP core (00_scope R10: a byte is 8 bits, a word is 32 bits). -/

namespace Sys2Proof

/-- A byte, 8 bits (R10). -/
abbrev Byte := BitVec 8

/-- A word, 32 bits (R10); every register is one (10_state, introduction). -/
abbrev Word := BitVec 32

/-- A 64-bit value: counters, timestamps, the NOW input (10_state R34 to R36, 60_exceptions R197). -/
abbrev DWord := BitVec 64

end Sys2Proof
end

