-- ==== Sys2Proof/Syntax.lean ====
section
/-! DEFINITION. The commands of the OTP core: one constructor per row of spec/opcode_table.json
(30_encoding R93). Every operand of a command is implicit (R92); only the two flags of R91 are carried. -/

namespace Sys2Proof

/-- A legal command (30_encoding R93, R94). -/
inductive Instr where
  /-- `SHA1`: the digest of MSG (40_sha1 R117). -/
  | sha1
  /-- `HMAC`: the HMAC-SHA1 of MSG under KEY (41_hmac R131). -/
  | hmac
  /-- `B32DEC`: the Base32 decoding of MSG (42_base32 R142). -/
  | b32dec
  /-- `HOTP`, and `HOTP.B32` when `b32`: KEY holds Base32 text (43_hotp R151). -/
  | hotp (b32 : Bool)
  /-- `TOTP`, and `TOTP.B32` when `b32` (44_totp R162). -/
  | totp (b32 : Bool)
  /-- `GETCODE`, and `GETCODE.DEF` when `dflt`: the secret is `DEFAULT_SECRET` (44_totp R163). -/
  | getcode (dflt : Bool)
deriving DecidableEq, Repr

end Sys2Proof
end

