-- ==== Sys2Proof/WellFormed.lean ====
section
/-! DEFINITION. The fields of a command word (30_encoding R91) and the checks that make a word legal
(30_encoding R95). -/

namespace Sys2Proof

/-- Format CW, the fields of a command word (30_encoding R91). -/
structure CW where
  /-- OP, bits [7:0] -/
  op : BitVec 8
  /-- B32, bit [8] -/
  b32 : Bool
  /-- DEF, bit [9] -/
  dflt : Bool
  /-- RSV, bits [31:10] -/
  rsv : BitVec 22
deriving DecidableEq, Repr

/-- The classes of illegal words (30_encoding R95). A word in several classes is named by the first; the
block reports the word alone, so the class cannot be observed (log 15). -/
inductive Illegal where
  /-- OP = 0x00 -/
  | opZero
  /-- OP = 0x07 to 0xFF -/
  | opReserved
  /-- RSV is not 0 -/
  | rsvNonzero
  /-- B32 = 1 with OP in 0x01, 0x02, 0x03, 0x06 -/
  | b32NotTaken
  /-- DEF = 1 with OP in 0x01 to 0x05 -/
  | dfltNotTaken
deriving DecidableEq, Repr

/-- The first class of R95 the fields fall in, none for a legal word. -/
def CW.illegal (c : CW) : Option Illegal :=
  if c.op = 0x00 then some .opZero
  else if 0x07 ≤ c.op then some .opReserved
  else if c.rsv ≠ 0 then some .rsvNonzero
  else if c.b32 = true ∧ c.op ≠ 0x04 ∧ c.op ≠ 0x05 then some .b32NotTaken
  else if c.dflt = true ∧ c.op ≠ 0x06 then some .dfltNotTaken
  else none

/-- The fields make a legal command word (30_encoding R93, R95). -/
def CW.wf (c : CW) : Bool := c.illegal.isNone

/-- The fields of a command (30_encoding R93, the columns OP, B32, DEF, RSV). -/
def Instr.fields : Instr → CW
  | .sha1 => ⟨0x01, false, false, 0⟩
  | .hmac => ⟨0x02, false, false, 0⟩
  | .b32dec => ⟨0x03, false, false, 0⟩
  | .hotp b => ⟨0x04, b, false, 0⟩
  | .totp b => ⟨0x05, b, false, 0⟩
  | .getcode d => ⟨0x06, false, d, 0⟩

/-- A command is well formed when its fields are those of a legal word. -/
def Instr.wf (i : Instr) : Bool := i.fields.wf

end Sys2Proof
end

