-- ==== Sys2Proof/Decode.lean ====
section
/-! DEFINITION. Decoding a command word by the match and mask columns of 30_encoding R93 and R94, total on
32-bit words, and the encoder beside it. -/

namespace Sys2Proof

/-- The fields of a word (30_encoding R91). -/
def CW.ofWord (w : Word) : CW where
  op := w.extractLsb' 0 8
  b32 := w.getLsbD 8
  dflt := w.getLsbD 9
  rsv := w.extractLsb' 10 22

/-- The word that holds the fields (30_encoding R91). -/
def CW.toWord (c : CW) : Word :=
  c.rsv ++ BitVec.ofBool c.dflt ++ BitVec.ofBool c.b32 ++ c.op

/-- Why a word that matches no row of R93 is illegal (30_encoding R95). -/
def illegalClass (w : Word) : Illegal := (CW.ofWord w).illegal.getD .opReserved

/-- `decode` of 30_encoding R94: a command, or the class of the illegal word. -/
def decode (w : Word) : Except Illegal Instr :=
  if w &&& 0xFFFFFFFF = 0x00000001 then .ok .sha1
  else if w &&& 0xFFFFFFFF = 0x00000002 then .ok .hmac
  else if w &&& 0xFFFFFFFF = 0x00000003 then .ok .b32dec
  else if w &&& 0xFFFFFEFF = 0x00000004 then .ok (.hotp (w.getLsbD 8))
  else if w &&& 0xFFFFFEFF = 0x00000005 then .ok (.totp (w.getLsbD 8))
  else if w &&& 0xFFFFFDFF = 0x00000006 then .ok (.getcode (w.getLsbD 9))
  else .error (illegalClass w)

/-- The word of a command (30_encoding R93, R96). -/
def encode (i : Instr) : Word := i.fields.toWord

/-- The instruction the decoder reads from the table word `w` of `nbits` bits; bits above `nbits` are 0.
A command is exactly one 32-bit word (30_encoding R90), so nothing longer is one. Log 16. -/
def decodeTableWord (nbits w : Nat) : Option Instr :=
  if nbits ≤ 32 then (decode (BitVec.ofNat 32 (w % 2 ^ nbits))).toOption else none

/-- The spelling of a command (30_encoding R96). -/
def Instr.spelling : Instr → String
  | .sha1 => "SHA1"
  | .hmac => "HMAC"
  | .b32dec => "B32DEC"
  | .hotp b => if b then "HOTP.B32" else "HOTP"
  | .totp b => if b then "TOTP.B32" else "TOTP"
  | .getcode d => if d then "GETCODE.DEF" else "GETCODE"

/-- The eight hexadecimal digits of a word, most significant first. DESIGN CHOICE: the letters are lower case
(`Nat.digitChar`); 30_encoding R96 is silent on their case. Safe: no state depends on it. Log 20. -/
def hexDigits (w : Word) : List Char :=
  (List.range 8).map fun i => Nat.digitChar (w.toNat / 16 ^ (7 - i) % 16)

/-- What a disassembler prints: the spelling, or `.word 0x........` for an illegal word (30_encoding R96; the
case of the digits is log 20's). -/
def disassemble (w : Word) : String :=
  match decode w with
  | .ok i => i.spelling
  | .error _ => ".word 0x" ++ String.ofList (hexDigits w)

/-- Every legal command, in the order of 30_encoding R96. -/
def Instr.all : List Instr :=
  [.sha1, .hmac, .b32dec, .hotp false, .hotp true, .totp false, .totp true, .getcode false, .getcode true]

/-- The command a mnemonic stands for (30_encoding R96). -/
def assemble (m : String) : Option Instr := Instr.all.find? fun i => i.spelling == m

end Sys2Proof
end

