-- ==== Sys2Proof/Machine/Bytes.lean ====
section
/-! DEFINITION. Byte sequences and their big-endian reading and writing (00_scope R11, R12; 20_memory R73). -/

namespace Sys2Proof.Machine

/-- `BE32` of four bytes, the first the most significant (00_scope R11). -/
def be32 (b0 b1 b2 b3 : Byte) : Word := b0 ++ b1 ++ b2 ++ b3

/-- `BE32(b[i..i+4))` (00_scope R11). -/
def be32At (b : List Byte) (i : Nat) : Word :=
  be32 (b.getD i 0) (b.getD (i + 1) 0) (b.getD (i + 2) 0) (b.getD (i + 3) 0)

/-- `BE32bytes` (00_scope R11). -/
def be32Bytes (w : Word) : List Byte :=
  [w.extractLsb' 24 8, w.extractLsb' 16 8, w.extractLsb' 8 8, w.extractLsb' 0 8]

/-- `BE64bytes` (00_scope R11). -/
def be64Bytes (v : DWord) : List Byte :=
  be32Bytes (v.extractLsb' 32 32) ++ be32Bytes (v.extractLsb' 0 32)

/-- `HI·2^32 + LO`, a 64-bit value held in a register pair (10_state R34 to R36, R46). -/
def pair (hi lo : Word) : DWord := hi ++ lo

/-- `rotl32`, rotation left by 1 to 31 places (00_scope R12). -/
def rotl32 (x : Word) (n : Nat) : Word := (x <<< n) ||| (x >>> (32 - n))

/-- `x ⊕ p_repeated`: every byte xored with `p` (00_scope R12). -/
def xorRepeated (x : List Byte) (p : Byte) : List Byte := x.map (· ^^^ p)

end Sys2Proof.Machine
end

