-- ==== Sys2Proof/Config.lean ====
section
/-! DEFINITION. What an implementation fixes (00_scope R8) and the free values the spec leaves open.
The free values are opaque: nothing can evaluate them, so a claim holds whatever they are. -/

namespace Sys2Proof

/-- The implementation parameters of 00_scope R8. They are carried by the state, so that a statement about
every state is a statement about every parameter set. The checks of R8, R9 and 44_totp R166 are `Params.wf`. -/
structure Params where
  /-- `MSG_BUF_BYTES` -/
  msgBytes : Nat
  /-- `KEY_BUF_BYTES` -/
  keyBytes : Nat
  /-- `OUT_BUF_BYTES` -/
  outBytes : Nat
  /-- `FRAG1` -/
  frag1 : List Byte
  /-- `FRAG2` -/
  frag2 : List Byte
  /-- `BASE`, the address the platform gives window offset 0 (20_memory R84) -/
  base : Nat
deriving DecidableEq, Repr, Inhabited

namespace Config

/-- A drawn byte (00_scope R14, `draw`): the byte that draw number `k` gives for window offset `a`.
Log 4. -/
opaque freeByte (k a : Nat) : Byte

/-- A drawn word: word `i` of draw number `k`. Log 4. -/
opaque freeWord (k i : Nat) : Word

/-- The level on the NOW input before the platform first drives it (60_exceptions R197). Log 10. -/
opaque freeNow : DWord

/-- Byte `i` of the fragment concatenation `FRAG1 ++ FRAG2`, which is not in the source (44_totp R166). Log 2. -/
opaque freeFragment (i : Nat) : Byte

end Config

/-- The parameter set of the model's reset state: the suggested sizes of R8 (log 1), fragments of unknown
content whose concatenation has the 18 bytes that matter (log 2), and BASE 0 (log 9). -/
def Params.suggested : Params where
  msgBytes := 4096
  keyBytes := 256
  outBytes := 4096
  frag1 := (List.range 11).map Config.freeFragment
  frag2 := (List.range 7).map fun i => Config.freeFragment (11 + i)
  base := 0

end Sys2Proof
end

