-- ==== Sys2Proof/Machine/State.lean ====
section
/-! DEFINITION. The state of the OTP core as plain data: the registers of 10_state R20, the buffers of
20_memory R61, the internal state of 10_state R40, the parameters of 00_scope R8, the environment's inputs, and
the model's own counters for free values. -/

namespace Sys2Proof.Machine

/-! ## Errors and stops -/

/-- The errors a command can report (60_exceptions R180); code 0, NONE, is no error. -/
inductive ErrCode where
  /-- 1: a byte that is neither a Base32 symbol nor a space -/
  | base32Char
  /-- 2: CFG.CODE_LEN outside 1..9 -/
  | codeLen
  /-- 3: a word not in 30_encoding R93 -/
  | illegalCmd
  /-- 4: a length register larger than its buffer -/
  | length
  /-- 5: TIME_STEP = 0, or the timestamp before the epoch -/
  | timeRange
deriving DecidableEq, Repr

/-- `Err(code, info)` of 00_scope R15: an error and its 32-bit information (60_exceptions R181). -/
structure CmdError where
  code : ErrCode
  info : Word
deriving DecidableEq, Repr

/-- The machine has no fault: a failing command completes with an error record and a bus ERROR is an answer
to the host (60_exceptions R185, R189). Nothing raises one. Log 14. -/
inductive Fault where
deriving DecidableEq, Repr

/-- Why a step has no meaning. -/
inductive Refusal where
  /-- Raised by an arm of `exec` whose instruction has no meaning yet; no arm does. Safe. -/
  | notModelled (mnemonic : String)
  /-- Raised by `step` alone, for a parameter set that 00_scope R9 and 44_totp R166 tell a model to refuse.
  Safe: the machine does not run. Log 3. -/
  | badParameters
deriving DecidableEq, Repr

/-! ## Memory -/

/-- The bytes of the three buffers, by window offset. A byte that no cell lists is one that no access and no
command has written since it was last drawn; it reads as a free value (`State.byteAt`). Log 5. -/
abbrev Memory := List Host.Cell

/-- The canonical form: offsets strictly rising. A cell always holds a written byte, so none holds what an
unlisted offset holds. -/
abbrev Memory.wf (m : Memory) : Prop := m.Pairwise fun x y => x.1 < y.1

/-- The three buffers (20_memory R61). -/
inductive Buf where
  | msg | key | out
deriving DecidableEq, Repr

/-! ## Registers -/

/-- The 23 registers (10_state R20). -/
inductive Reg where
  | id | caps | ctrl | status | cmd | errInfo | msgLen | keyLen | cfg | timeStep | epochLo | epochHi
  | timeLo | timeHi | cntLo | cntHi | outLen | code | lcntLo | lcntHi | msgSize | keySize | outSize
deriving DecidableEq, Repr

/-! ## Internal state (10_state R40) -/

/-- Five words: the HashState H0..H4, or the working variables a..e. -/
structure FiveWords where
  a : Word
  b : Word
  c : Word
  d : Word
  e : Word
deriving DecidableEq, Repr

/-- The SHA-1 unit: its HashState, and the working variables and message schedule of its last block
(40_sha1 R112 to R115). -/
structure Sha1Unit where
  hash : FiveWords
  vars : FiveWords
  /-- W[0..80) -/
  sched : List Word
deriving DecidableEq, Repr

/-- The engine's working state (10_state R40). No host access reads it and no command reads it before writing
it; it is kept so that the state holds what the spec names. Log 11. -/
structure Work where
  sha : Sha1Unit
  /-- Base32 bit accumulator -/
  acc : BitVec 12
  /-- its bit count, 0 to 12 -/
  nbits : BitVec 4
  /-- HMAC padded key, 64 bytes -/
  k0 : List Byte
  /-- HMAC inner digest, 20 bytes -/
  inner : List Byte
deriving DecidableEq, Repr

/-- Working state of draw number `k` (10_state R45: unspecified after a reset). -/
def Work.free (k : Nat) : Work :=
  let w := Config.freeWord k
  { sha :=
      { hash := ⟨w 3, w 4, w 5, w 6, w 7⟩
        vars := ⟨w 8, w 9, w 10, w 11, w 12⟩
        sched := (List.range 80).map fun i => w (13 + i) }
    acc := (w 93).setWidth 12
    nbits := (w 94).setWidth 4
    k0 := (List.range 64).map (Config.freeByte k)
    inner := (List.range 20).map fun i => Config.freeByte k (64 + i) }

/-! ## The host's side -/

/-- What an access asks for. A 1-byte write carries its byte in `data[7:0]` (20_memory R65). -/
inductive Dir where
  | read
  | write (data : Word)
deriving DecidableEq, Repr

/-- A host access: direction, window offset (18 bits), size in bytes (20_memory R60, R62; 30_encoding R97). -/
structure Access where
  dir : Dir
  offset : BitVec 18
  size : Nat
deriving DecidableEq, Repr

/-- The answer an access gets: OKAY, with data for a read, or ERROR (20_memory R62). -/
inductive Answer where
  /-- OKAY to a write -/
  | okay
  /-- OKAY to a 1-byte read -/
  | byte (b : Byte)
  /-- OKAY to a 4-byte read -/
  | word (w : Word)
  /-- ERROR -/
  | error
deriving DecidableEq, Repr

/-- One event of the environment's schedule. Log 8. -/
inductive Input where
  /-- a host access reaches the block (20_memory R62) -/
  | access (x : Access)
  /-- the engine moves: completion, if BUSY (60_exceptions R183) -/
  | engine
  /-- the platform drives NOW to `v` (60_exceptions R197) -/
  | driveNow (v : DWord)
  /-- the platform pulls the power-on reset (70_reset R210) -/
  | powerOn
deriving DecidableEq, Repr

/-! ## The state -/

/-- The whole state. -/
structure State where
  /-- parameters (00_scope R8); no step changes them -/
  params : Params
  /-- CTRL.IE (10_state R25) -/
  ie : Bool
  /-- STATUS.BUSY (10_state R26) -/
  busy : Bool
  /-- STATUS.DONE -/
  done : Bool
  /-- STATUS.OVR -/
  ovr : Bool
  /-- STATUS.ERR -/
  err : BitVec 4
  /-- STATUS.LOG -/
  log : BitVec 4
  /-- ERRINFO (10_state R29) -/
  errInfo : Word
  /-- MSG_LEN (10_state R30) -/
  msgLen : Word
  /-- KEY_LEN (10_state R31) -/
  keyLen : Word
  /-- CFG.CODE_LEN (10_state R32) -/
  codeLen : BitVec 4
  /-- TIME_STEP (10_state R33) -/
  timeStep : Word
  /-- EPOCH_LO, EPOCH_HI (10_state R34) -/
  epochLo : Word
  epochHi : Word
  /-- TIME_LO, TIME_HI (10_state R35) -/
  timeLo : Word
  timeHi : Word
  /-- CNT_LO, CNT_HI (10_state R36) -/
  cntLo : Word
  cntHi : Word
  /-- OUT_LEN (10_state R37) -/
  outLen : Word
  /-- CODE (10_state R38) -/
  code : Word
  /-- LCNT_LO, LCNT_HI (10_state R39) -/
  lcntLo : Word
  lcntHi : Word
  /-- MSG, KEY and OUT (20_memory R61) -/
  mem : Memory
  /-- the latched command word (10_state R40) -/
  cmd : Word
  /-- the sampled time (10_state R40) -/
  now : DWord
  /-- the rest of the internal state (10_state R40) -/
  work : Work
  /-- the level on the NOW input (60_exceptions R197) -/
  nowIn : DWord
  /-- the events still to come, the next one first (log 8) -/
  inputs : List Input
  /-- the answer to the last host access (log 13) -/
  answer : Option Answer
  /-- the model's own: the number of the next draw (log 4) -/
  draws : Nat
  /-- the model's own: the draw behind unwritten MSG and KEY bytes (log 5) -/
  ramDraw : Nat
  /-- the model's own: the draw behind unspecified OUT bytes (log 6) -/
  outDraw : Nat
deriving DecidableEq, Repr

/-- The block right after power-on reset (70_reset R211), with the suggested parameters and nothing asked of
it yet. The registers hold the reset column of 10_state R20; buffers and internal state are draws. -/
def State.reset : State where
  params := Params.suggested
  ie := false
  busy := false
  done := false
  ovr := false
  err := 0
  log := 0
  errInfo := 0
  msgLen := 0
  keyLen := 0
  codeLen := 9
  timeStep := 0x0000001E
  epochLo := 0
  epochHi := 0
  timeLo := 0
  timeHi := 0
  cntLo := 0
  cntHi := 0
  outLen := 0
  code := 0
  lcntLo := 0
  lcntHi := 0
  mem := []
  cmd := Config.freeWord 0 0
  now := Config.freeWord 0 1 ++ Config.freeWord 0 2
  work := Work.free 0
  nowIn := Config.freeNow
  inputs := []
  answer := none
  draws := 2
  ramDraw := 0
  outDraw := 1

end Sys2Proof.Machine
end

