-- ==== Sys2Proof/Machine/Flags.lean ====
section
/-! DEFINITION. The STATUS register: its fields, its writers, the interrupt output, and the error codes
(10_state R26, R27, R43, R44; 60_exceptions R180, R190). -/

namespace Sys2Proof.Machine

/-- The 4-bit code of an error (60_exceptions R180). Code 0 is NONE; 6 to 15 are never produced. -/
def ErrCode.code : ErrCode → BitVec 4
  | .base32Char => 1
  | .codeLen => 2
  | .illegalCmd => 3
  | .length => 4
  | .timeRange => 5

/-- The IRQ output, `x[CTRL].IE & x[STATUS].DONE` (10_state R44, 60_exceptions R190). -/
def State.irq (s : State) : Bool := s.ie && s.done

/-- STATUS as a word, with the given ERR and LOG; bits 31..12 read 0 (10_state R26). -/
def State.statusWord (s : State) (err log : BitVec 4) : Word :=
  (0 : BitVec 20) ++ log ++ err ++ BitVec.ofBool s.irq ++ BitVec.ofBool s.ovr ++ BitVec.ofBool s.done
    ++ BitVec.ofBool s.busy

/-- A host write of `v` to STATUS: W1C of DONE and OVR, every other bit ignored (10_state R27). With it a host
acknowledges a completion; nothing else has to be restored after an error (60_exceptions R187). -/
def State.ackStatus (s : State) (v : Word) : State :=
  { s with
    done := if v.getLsbD 1 then false else s.done
    ovr := if v.getLsbD 2 then false else s.ovr }

/-- A host write is dropped because the engine is busy (20_memory R70). -/
def State.dropWrite (s : State) : State := { s with ovr := true }

/-- A host write that takes effect while IDLE and is dropped while BUSY (20_memory R70). -/
def State.ifIdle (s : State) (written : State) : State := if s.busy then s.dropWrite else written

end Sys2Proof.Machine
end

