-- ==== Sys2Proof/Machine/Ops.lean ====
section
/-! DEFINITION. The named operations over buffers and registers (20_memory, 10_state), the acceptance of a
command, the one completion record and the raising of an error (60_exceptions R183), and the two resets
(70_reset R211, R212). -/

namespace Sys2Proof.Machine

/-! ## Buffers -/

/-- The byte the memory lists for an offset, if it lists one. -/
def Memory.find : Memory → Nat → Option Byte
  | [], _ => none
  | (x, b) :: m, a => if x = a then some b else Memory.find m a

/-- Store one byte. -/
def Memory.store : Memory → Nat → Byte → Memory
  | [], a, b => [(a, b)]
  | (x, c) :: m, a, b =>
    if a < x then (a, b) :: (x, c) :: m else if a = x then (a, b) :: m else (x, c) :: Memory.store m a b

/-- Store bytes at rising offsets from `a`. -/
def Memory.storeBytes : Memory → Nat → List Byte → Memory
  | m, _, [] => m
  | m, a, b :: bs => Memory.storeBytes (Memory.store m a b) (a + 1) bs

/-- Forget every byte at offset `a` and above. -/
def Memory.below (m : Memory) (a : Nat) : Memory := m.filter fun x => x.1 < a

/-- The window offset of a buffer's first byte (20_memory R61). -/
def Buf.base : Buf → Nat
  | .msg => 0x10000
  | .key => 0x20000
  | .out => 0x30000

/-- A buffer's size in bytes (00_scope R8). -/
def Buf.size (p : Params) : Buf → Nat
  | .msg => p.msgBytes
  | .key => p.keyBytes
  | .out => p.outBytes

/-- The draw that gives an unlisted byte its value: the last one that left OUT unspecified, or the one of the
last power-on reset (20_memory R82, 70_reset R211, R212). -/
def State.drawOf (s : State) (a : Nat) : Nat := if a < Buf.out.base then s.ramDraw else s.outDraw

/-- The byte a buffer holds at window offset `a`. -/
def State.byteAt (s : State) (a : Nat) : Byte :=
  (s.mem.find a).getD (Config.freeByte (s.drawOf a) a)

/-- `MemRead(BUF, off, n)` (00_scope R14). -/
def State.memRead (s : State) (b : Buf) (off n : Nat) : List Byte :=
  (List.range n).map fun i => s.byteAt (b.base + off + i)

/-- A host write to buffer bytes from index `i`: stored in MSG and KEY while IDLE, dropped there while BUSY,
ignored in OUT at any time (20_memory R68, R70). -/
def State.writeBuf (s : State) (b : Buf) (i : Nat) (v : List Byte) : State :=
  match b with
  | .out => s
  | .msg => s.ifIdle { s with mem := s.mem.storeBytes (Buf.msg.base + i) v }
  | .key => s.ifIdle { s with mem := s.mem.storeBytes (Buf.key.base + i) v }

/-- What a host read of buffer byte `i` returns: the byte held, but a fresh draw for OUT while BUSY
(20_memory R68, R71). -/
def State.busByte (s : State) (b : Buf) (i : Nat) : Byte :=
  if b = .out ∧ s.busy = true then Config.freeByte s.draws (Buf.out.base + i) else s.byteAt (b.base + i)

/-! ## Completion -/

/-- `finish(err, info, n, code, lcnt)` with the result bytes `out` written to OUT and `n` their number
(60_exceptions R183). OUT past them is a new draw (20_memory R82). -/
def State.finish (s : State) (err : BitVec 4) (info : Word) (out : List Byte) (code : Word) (lcnt : DWord) :
    State :=
  { s with
    err := err
    errInfo := info
    outLen := BitVec.ofNat 32 out.length
    code := code
    lcntLo := lcnt.extractLsb' 0 32
    lcntHi := lcnt.extractLsb' 32 32
    mem := (s.mem.below Buf.out.base).storeBytes Buf.out.base out
    outDraw := s.draws
    draws := s.draws + 1
    busy := false
    done := true }

/-- The result of a command that succeeds. -/
structure Result where
  /-- the bytes written to OUT; OUT_LEN is their number -/
  out : List Byte
  /-- CODE -/
  code : Word
  /-- LCNT -/
  lcnt : DWord
deriving DecidableEq, Repr

/-- `finish_ok(n, code, lcnt)` after `MemWrite(OUT, 0, n, out)` (60_exceptions R183). -/
def State.finishOk (s : State) (r : Result) : State := s.finish 0 0 r.out r.code r.lcnt

/-- `raise E(info)`: the block's one way of taking an exception. The error record is STATUS.ERR and ERRINFO;
no control is transferred and the inputs stand (60_exceptions R183 to R185). -/
def State.raise (s : State) (e : CmdError) : State := s.finish e.code.code e.info [] 0 0

/-- `finish_caught(e, info)`: GETCODE's recovery boundary (44_totp R164). -/
def State.finishCaught (s : State) (e : CmdError) : State :=
  { s with log := e.code.code }.finish 0 e.info [] 0 0

/-- End a command that reports its errors (60_exceptions R186). -/
def State.conclude (s : State) : Except CmdError Result → State
  | .ok r => s.finishOk r
  | .error e => s.raise e

/-- End a GETCODE: a success clears LOG, an error is caught (44_totp R163, R164). -/
def State.concludeCaught (s : State) : Except CmdError Result → State
  | .ok r => { s with log := 0 }.finishOk r
  | .error e => s.finishCaught e

/-! ## Acceptance and resets -/

/-- Acceptance of the command word `v`; a word with OP = 0x06 samples NOW (20_memory R69). -/
def State.accept (s : State) (v : Word) : State :=
  { s with
    cmd := v
    now := if v.extractLsb' 0 8 = 0x06 then s.nowIn else s.now
    done := false
    busy := true }

/-- The soft reset (70_reset R212): no pending completion, every register at its reset value (10_state R20),
OUT and the internal state unspecified (10_state R45), MSG and KEY unchanged. -/
def State.softReset (s : State) : State :=
  { s with
    ie := false
    busy := false
    done := false
    ovr := false
    err := 0
    log := 0
    errInfo := 0
    msgLen := 0
    keyLen := 0
    codeLen := 9
    timeStep := 0x0000001E
    epochLo := 0
    epochHi := 0
    timeLo := 0
    timeHi := 0
    cntLo := 0
    cntHi := 0
    outLen := 0
    code := 0
    lcntLo := 0
    lcntHi := 0
    mem := s.mem.below Buf.out.base
    cmd := Config.freeWord s.draws 0
    now := Config.freeWord s.draws 1 ++ Config.freeWord s.draws 2
    work := Work.free s.draws
    outDraw := s.draws
    draws := s.draws + 1 }

/-- The power-on reset (70_reset R211): as the soft reset, and MSG and KEY are unspecified too. The parameters,
the NOW input and the environment's queue are not the block's to reset. Log 18. -/
def State.powerOn (s : State) : State := { s.softReset with mem := [], ramDraw := s.draws }

/-! ## Registers -/

/-- The offset of a register (10_state R20). -/
def Reg.offset : Reg → Nat
  | .id => 0x000
  | .caps => 0x004
  | .ctrl => 0x008
  | .status => 0x00C
  | .cmd => 0x010
  | .errInfo => 0x014
  | .msgLen => 0x018
  | .keyLen => 0x01C
  | .cfg => 0x020
  | .timeStep => 0x024
  | .epochLo => 0x028
  | .epochHi => 0x02C
  | .timeLo => 0x030
  | .timeHi => 0x034
  | .cntLo => 0x038
  | .cntHi => 0x03C
  | .outLen => 0x040
  | .code => 0x044
  | .lcntLo => 0x048
  | .lcntHi => 0x04C
  | .msgSize => 0x050
  | .keySize => 0x054
  | .outSize => 0x058

/-- The registers in offset order (10_state R20). -/
def Reg.all : List Reg :=
  [.id, .caps, .ctrl, .status, .cmd, .errInfo, .msgLen, .keyLen, .cfg, .timeStep, .epochLo, .epochHi,
    .timeLo, .timeHi, .cntLo, .cntHi, .outLen, .code, .lcntLo, .lcntHi, .msgSize, .keySize, .outSize]

/-- The register at an offset, none at a reserved one (10_state R20, R42). -/
def Reg.ofOffset (a : Nat) : Option Reg := Reg.all.find? fun r => r.offset == a

/-- What a read of a result register holding `v` returns: a fresh draw while BUSY (20_memory R71). -/
def State.resultRead (s : State) (v : Word) : Word := if s.busy then Config.freeWord s.draws 0 else v

/-- The value a legal read of a register returns (10_state R23 to R41, 20_memory R71). -/
def State.readReg (s : State) : Reg → Word
  | .id => 0x4F545031
  | .caps => 0x00091440
  | .ctrl => (BitVec.ofBool s.ie).setWidth 32
  | .status =>
    if s.busy then
      s.statusWord ((Config.freeWord s.draws 0).setWidth 4) ((Config.freeWord s.draws 1).setWidth 4)
    else s.statusWord s.err s.log
  | .cmd => 0
  | .errInfo => s.resultRead s.errInfo
  | .msgLen => s.msgLen
  | .keyLen => s.keyLen
  | .cfg => s.codeLen.setWidth 32
  | .timeStep => s.timeStep
  | .epochLo => s.epochLo
  | .epochHi => s.epochHi
  | .timeLo => s.timeLo
  | .timeHi => s.timeHi
  | .cntLo => s.cntLo
  | .cntHi => s.cntHi
  | .outLen => s.resultRead s.outLen
  | .code => s.resultRead s.code
  | .lcntLo => s.resultRead s.lcntLo
  | .lcntHi => s.resultRead s.lcntHi
  | .msgSize => BitVec.ofNat 32 s.params.msgBytes
  | .keySize => BitVec.ofNat 32 s.params.keyBytes
  | .outSize => BitVec.ofNat 32 s.params.outBytes

/-- A host write of `v` to CTRL: a soft reset if SRST is written 1, which overrides bit 0; else IE
(10_state R25, 70_reset R212). -/
def State.writeCtrl (s : State) (v : Word) : State :=
  if v.getLsbD 1 then s.softReset else { s with ie := v.getLsbD 0 }

/-- The effect of a legal write of `v` to a register (10_state R20, R25 to R38; 20_memory R69, R70). A write to
a read-only register has none. -/
def State.writeReg (s : State) (r : Reg) (v : Word) : State :=
  match r with
  | .ctrl => s.writeCtrl v
  | .status => s.ackStatus v
  | .cmd => s.ifIdle (s.accept v)
  | .msgLen => s.ifIdle { s with msgLen := v }
  | .keyLen => s.ifIdle { s with keyLen := v }
  | .cfg => s.ifIdle { s with codeLen := v.extractLsb' 0 4 }
  | .timeStep => s.ifIdle { s with timeStep := v }
  | .epochLo => s.ifIdle { s with epochLo := v }
  | .epochHi => s.ifIdle { s with epochHi := v }
  | .timeLo => s.ifIdle { s with timeLo := v }
  | .timeHi => s.ifIdle { s with timeHi := v }
  | .cntLo => s.ifIdle { s with cntLo := v }
  | .cntHi => s.ifIdle { s with cntHi := v }
  | .id => s
  | .caps => s
  | .errInfo => s
  | .outLen => s
  | .code => s
  | .lcntLo => s
  | .lcntHi => s
  | .msgSize => s
  | .keySize => s
  | .outSize => s

end Sys2Proof.Machine
end

