-- ==== Sys2Proof/Machine/Bus.lean ====
section
/-! DEFINITION. Host accesses: which register or buffer bytes an access names, whether it is legal, and its effect
and answer (20_memory R60 to R72). -/

namespace Sys2Proof.Machine

/-- What a host access names. -/
inductive Target where
  /-- a whole register -/
  | reg (r : Reg)
  /-- byte `i` of a buffer -/
  | byte (b : Buf) (i : Nat)
  /-- the four bytes of a buffer from `i` -/
  | word (b : Buf) (i : Nat)
  /-- nothing an access of this size and offset may name -/
  | bad
deriving DecidableEq, Repr

/-- The buffer whose window holds offset `a`, for `a` at or above 0x10000 (20_memory R61). -/
def Buf.ofOffset (a : Nat) : Buf :=
  if a < Buf.key.base then .msg else if a < Buf.out.base then .key else .out

/-- The target of an access in a buffer window (20_memory R64, R67). -/
def bufTarget (p : Params) (a size : Nat) : Target :=
  let b := Buf.ofOffset a
  let i := a - b.base
  if size = 1 ∧ i < b.size p then .byte b i
  else if size = 4 ∧ a % 4 = 0 ∧ i + 4 ≤ b.size p then .word b i
  else .bad

/-- The target of an access below the buffer windows (20_memory R63, R67; 10_state R42). -/
def regTarget (a size : Nat) : Target :=
  if size = 4 ∧ a % 4 = 0 then
    match Reg.ofOffset a with
    | some r => .reg r
    | none => .bad
  else .bad

/-- The target of an access (20_memory R61 to R64, R67). -/
def Access.target (p : Params) (x : Access) : Target :=
  if x.offset.toNat < Buf.msg.base then regTarget x.offset.toNat x.size else bufTarget p x.offset.toNat x.size

/-- Give a read its answer. A read changes nothing of the block (20_memory R72); while BUSY it uses up one draw,
so that the next read's draws are fresh ones (20_memory R71). -/
def State.answerRead (s : State) (d : Answer) : State :=
  { s with answer := some d, draws := if s.busy then s.draws + 1 else s.draws }

/-- Answer OKAY to a write. -/
def State.answerOkay (s : State) : State := { s with answer := some .okay }

/-- What a 4-byte read of a buffer returns: big-endian lanes (20_memory R65). -/
def State.busWord (s : State) (b : Buf) (i : Nat) : Word :=
  be32 (s.busByte b i) (s.busByte b (i + 1)) (s.busByte b (i + 2)) (s.busByte b (i + 3))

/-- One host access: its effect and its answer. An access that answers ERROR changes no state
(20_memory R62 to R72). -/
def State.bus (s : State) (x : Access) : State :=
  match x.target s.params, x.dir with
  | .reg r, .read => s.answerRead (.word (s.readReg r))
  | .reg r, .write v => (s.writeReg r v).answerOkay
  | .byte b i, .read => s.answerRead (.byte (s.busByte b i))
  | .byte b i, .write v => (s.writeBuf b i [v.setWidth 8]).answerOkay
  | .word b i, .read => s.answerRead (.word (s.busWord b i))
  | .word b i, .write v => (s.writeBuf b i (be32Bytes v)).answerOkay
  | .bad, _ => { s with answer := some .error }

end Sys2Proof.Machine
end

