-- ==== Sys2Proof/Machine/Base32.lean ====
section
/-! DEFINITION. The Base32 decoder unit, `Base32Decode` of 42_base32 R140 and R141. -/

namespace Sys2Proof.Machine

/-- `idx(c)`, the 5-bit index of a Base32 symbol, none for any other byte (42_base32 R140). -/
def base32Index (c : Byte) : Option Nat :=
  if 0x41 ≤ c ∧ c ≤ 0x5A then some (c.toNat - 0x41)
  else if 0x61 ≤ c ∧ c ≤ 0x7A then some (c.toNat - 0x61)
  else if 0x32 ≤ c ∧ c ≤ 0x37 then some (c.toNat - 0x32 + 26)
  else none

/-- The decoder's accumulator, its bit count, and the bytes emitted so far (42_base32 R141). -/
structure B32State where
  acc : Nat
  nbits : Nat
  out : List Byte
deriving DecidableEq, Repr

/-- Take in one 5-bit index, and emit a byte when at least 8 bits are buffered (42_base32 R141). -/
def B32State.push (s : B32State) (idx : Nat) : B32State :=
  let acc := s.acc * 32 + idx
  let nbits := s.nbits + 5
  if 8 ≤ nbits then
    { acc := acc % 2 ^ (nbits - 8)
      nbits := nbits - 8
      out := s.out ++ [BitVec.ofNat 8 (acc / 2 ^ (nbits - 8))] }
  else { s with acc := acc, nbits := nbits }

/-- The information of BASE32_CHAR: source tag, bad byte, its index (42_base32 R141, 60_exceptions R181). -/
def base32Info (src : BitVec 2) (c : Byte) (i : Nat) : Word := (0 : BitVec 6) ++ src ++ c ++ BitVec.ofNat 16 i

/-- The decoding loop over the rest of the text, whose first byte has index `i`: the decoder's state at the
end, or where the first invalid byte stopped it, and that byte's error (42_base32 R141). -/
def base32Run (src : BitVec 2) : Nat → B32State → List Byte → B32State × Option CmdError
  | _, s, [] => (s, none)
  | i, s, c :: t =>
    if c = 0x20 then base32Run src (i + 1) s t
    else
      match base32Index c with
      | none => (s, some ⟨.base32Char, base32Info src c i⟩)
      | some idx => base32Run src (i + 1) (s.push idx) t

/-- The decoder over a whole text. -/
def runBase32 (src : BitVec 2) (t : List Byte) : B32State × Option CmdError := base32Run src 0 ⟨0, 0, []⟩ t

/-- `Base32Decode(t, src)` (42_base32 R141): `src` 1 = MSG, 2 = KEY, 3 = DEFAULT_SECRET. -/
def base32Decode (t : List Byte) (src : BitVec 2) : Except CmdError (List Byte) :=
  match (runBase32 src t).2 with
  | none => .ok (runBase32 src t).1.out
  | some e => .error e

end Sys2Proof.Machine
end

