-- ==== Sys2Proof/Machine/Secret.lean ====
section
/-! DEFINITION. The implementation parameters: the checks of 00_scope R8 and R9, the default secret of
44_totp R166, and the window's place in the platform's map (20_memory R84). -/

namespace Sys2Proof

/-- A buffer size a model may take: a multiple of 4 between `lo` and 65536 (00_scope R8). -/
def sizeInRange (lo v : Nat) : Bool := lo ≤ v && v ≤ 65536 && v % 4 == 0

/-- The parameter sets a model takes; it refuses every other (00_scope R8, R9; 44_totp R166). -/
def Params.wf (p : Params) : Bool :=
  sizeInRange 64 p.msgBytes && sizeInRange 1 p.keyBytes
    && sizeInRange (max (max p.msgBytes p.keyBytes) 20) p.outBytes
    && 18 ≤ (p.frag1 ++ p.frag2).length

/-- The least `j` with `t[j] = 'Q'` and `t[j+1] = 'S'`, counting from `j = i` (44_totp R166). -/
def findQS : Nat → List Byte → Option Nat
  | i, a :: b :: t => if a = 0x51 ∧ b = 0x53 then some i else findQS (i + 1) (b :: t)
  | _, _ => none

/-- `DEFAULT_SECRET`, derived from the fragments (44_totp R166). -/
def Params.defaultSecret (p : Params) : List Byte :=
  let S := p.frag1 ++ p.frag2
  let seg1 := S.take 11
  let seg2 := (S.drop 11).take 7
  match findQS 0 seg1 with
  | some q => seg1.take q ++ seg2 ++ seg1.drop (q + 2)
  | none => seg1

/-- The platform address of a window offset (20_memory R60, R84). -/
def Params.address (p : Params) (a : BitVec 18) : Nat := p.base + a.toNat

/-- The window offset a platform address falls on, none outside the window (20_memory R60, R84). -/
def Params.offsetOf (p : Params) (addr : Nat) : Option (BitVec 18) :=
  if p.base ≤ addr ∧ addr < p.base + 0x40000 then some (BitVec.ofNat 18 (addr - p.base)) else none

end Sys2Proof
end

