-- ==== Sys2Proof/Machine/Operands.lean ====
section
/-! DEFINITION. The implicit operands of the commands (30_encoding R92; 20_memory R82; 43_hotp R152), each with
the checks that come before it (60_exceptions R182). -/

namespace Sys2Proof.Machine

/-- `T0`, the epoch offset (10_state R34). -/
def State.epoch (s : State) : DWord := pair s.epochHi s.epochLo

/-- `T`, the timestamp register pair (10_state R35). -/
def State.time (s : State) : DWord := pair s.timeHi s.timeLo

/-- `C`, the HOTP counter (10_state R36). -/
def State.counter (s : State) : DWord := pair s.cntHi s.cntLo

/-- `LCNT`, the counter of the last code (10_state R39). -/
def State.lcnt (s : State) : DWord := pair s.lcntHi s.lcntLo

/-- The message or text in MSG, after its LENGTH check (20_memory R82, 60_exceptions R182). -/
def State.message (s : State) : Except CmdError (List Byte) :=
  if s.params.msgBytes < s.msgLen.toNat then .error ⟨.length, 1⟩
  else .ok (s.memRead .msg 0 s.msgLen.toNat)

/-- The key, secret or text in KEY, after its LENGTH check (20_memory R82, 60_exceptions R182). -/
def State.keyBytes (s : State) : Except CmdError (List Byte) :=
  if s.params.keyBytes < s.keyLen.toNat then .error ⟨.length, 2⟩
  else .ok (s.memRead .key 0 s.keyLen.toNat)

/-- `ResolveSecret(b32)` (43_hotp R152). -/
def State.resolveSecret (s : State) (b32 : Bool) : Except CmdError (List Byte) := do
  let k ← s.keyBytes
  if b32 then base32Decode k 2 else .ok k

/-- GETCODE's Base32 text and its source tag: KEY, or `DEFAULT_SECRET` when DEF = 1 (44_totp R163). -/
def State.getcodeText (s : State) (dflt : Bool) : Except CmdError (List Byte × BitVec 2) :=
  if dflt then .ok (s.params.defaultSecret, 3)
  else do
    let k ← s.keyBytes
    .ok (k, 2)

end Sys2Proof.Machine
end

