-- ==== Sys2Proof/Machine/Sha1.lean ====
section
/-! DEFINITION. The SHA-1 unit, `Sha1` of 40_sha1 R110 to R116. -/

namespace Sys2Proof.Machine

/-- `pad(m)` (40_sha1 R111): `z = (55 − len m) mod 64` zero bytes between the 0x80 and the length field. -/
def pad (m : List Byte) : List Byte :=
  m ++ [0x80] ++ List.replicate ((55 + (64 - m.length % 64)) % 64) 0x00 ++ be64Bytes (BitVec.ofNat 64 (8 * m.length))

/-- The first `n` 64-byte blocks of a padded message (40_sha1 R116). -/
def blocksOf : Nat → List Byte → List (List Byte)
  | 0, _ => []
  | n + 1, p => p.take 64 :: blocksOf n (p.drop 64)

/-- The initial HashState (40_sha1 R112). -/
def initialHash : FiveWords := ⟨0x67452301, 0xEFCDAB89, 0x98BADCFE, 0x10325476, 0xC3D2E1F0⟩

/-- The message schedule W[0..80) of a block (40_sha1 R113). -/
def schedule (B : List Byte) : List Word :=
  (List.range' 16 64).foldl
    (fun W i => W ++ [rotl32 (W.getD (i - 3) 0 ^^^ W.getD (i - 8) 0 ^^^ W.getD (i - 14) 0 ^^^ W.getD (i - 16) 0) 1])
    ((List.range 16).map fun i => be32At B (4 * i))

/-- The function `f` of round `i` (40_sha1 R114). -/
def roundFunction (i : Nat) (b c d : Word) : Word :=
  if i ≤ 19 then (b &&& c) ||| (~~~b &&& d)
  else if i ≤ 39 then b ^^^ c ^^^ d
  else if i ≤ 59 then (b &&& c) ^^^ (b &&& d) ^^^ (c &&& d)
  else b ^^^ c ^^^ d

/-- The constant `K` of round `i` (40_sha1 R114). -/
def roundConstant (i : Nat) : Word :=
  if i ≤ 19 then 0x5A827999
  else if i ≤ 39 then 0x6ED9EBA1
  else if i ≤ 59 then 0x8F1BBCDC
  else 0xCA62C1D6

/-- Round `i` on the working variables (40_sha1 R114). -/
def sha1Round (W : List Word) (v : FiveWords) (i : Nat) : FiveWords :=
  { a := rotl32 v.a 5 + roundFunction i v.b v.c v.d + v.e + W.getD i 0 + roundConstant i
    b := v.a
    c := rotl32 v.b 30
    d := v.c
    e := v.d }

/-- The working variables after the first `n` rounds (40_sha1 R114). -/
def sha1Rounds (n : Nat) (W : List Word) (h : FiveWords) : FiveWords := (List.range n).foldl (sha1Round W) h

/-- The five additions modulo 2^32 (40_sha1 R115). -/
def FiveWords.add (h v : FiveWords) : FiveWords := ⟨h.a + v.a, h.b + v.b, h.c + v.c, h.d + v.d, h.e + v.e⟩

/-- One block: schedule, 80 rounds, update (40_sha1 R113 to R115). -/
def Sha1Unit.absorb (u : Sha1Unit) (B : List Byte) : Sha1Unit :=
  let W := schedule B
  let v := sha1Rounds 80 W u.hash
  { hash := u.hash.add v, vars := v, sched := W }

/-- The unit before the first block (40_sha1 R112, R114). -/
def Sha1Unit.start : Sha1Unit := { hash := initialHash, vars := initialHash, sched := [] }

/-- The unit after the last block of `pad m` (40_sha1 R116). -/
def runSha1 (m : List Byte) : Sha1Unit :=
  (blocksOf ((pad m).length / 64) (pad m)).foldl Sha1Unit.absorb Sha1Unit.start

/-- `BE32bytes(H0) ++ .. ++ BE32bytes(H4)` (40_sha1 R115). -/
def FiveWords.bytes (h : FiveWords) : List Byte :=
  be32Bytes h.a ++ be32Bytes h.b ++ be32Bytes h.c ++ be32Bytes h.d ++ be32Bytes h.e

/-- `Sha1(m)` (40_sha1 R116), 20 bytes. -/
def sha1 (m : List Byte) : List Byte := (runSha1 m).hash.bytes

/-- The number of block compressions of a message of `L` bytes (40_sha1 R111, 70_reset R220). -/
def sha1Blocks (L : Nat) : Nat := (L + 8) / 64 + 1

end Sys2Proof.Machine
end

