-- ==== Sys2Proof/Machine/Hmac.lean ====
section
/-! DEFINITION. The HMAC-SHA1 unit, `HmacSha1` of 41_hmac R130. -/

namespace Sys2Proof.Machine

/-- `K0`: the key, hashed when longer than 64 bytes, zero-padded to 64 bytes (41_hmac R130). -/
def hmacKey (k : List Byte) : List Byte :=
  let k := if 64 < k.length then sha1 k else k
  k ++ List.replicate (64 - k.length) 0x00

/-- The message of the inner hash (41_hmac R130). -/
def hmacInnerText (k m : List Byte) : List Byte := xorRepeated (hmacKey k) 0x36 ++ m

/-- The message of the outer hash (41_hmac R130). -/
def hmacOuterText (k m : List Byte) : List Byte := xorRepeated (hmacKey k) 0x5C ++ sha1 (hmacInnerText k m)

/-- `HmacSha1(k, m)` (41_hmac R130), 20 bytes. -/
def hmacSha1 (k m : List Byte) : List Byte := sha1 (hmacOuterText k m)

end Sys2Proof.Machine
end

