-- ==== Sys2Proof/Machine/Hotp.lean ====
section
/-! DEFINITION. The HOTP unit, `Hotp` and `Decimal` of 43_hotp R150 and R153. -/

namespace Sys2Proof.Machine

/-- A code of a given length: its binary value and its decimal string (43_hotp R150). -/
structure Otp where
  code : Nat
  digits : List Byte
deriving DecidableEq, Repr

/-- `Decimal(code, n)`: `n` ASCII digits, the most significant first (43_hotp R153). -/
def decimal (code n : Nat) : List Byte :=
  (List.range n).map fun j => BitVec.ofNat 8 (0x30 + code / 10 ^ (n - 1 - j) % 10)

/-- Dynamic truncation of a digest: the 31-bit value at the offset its last byte gives (43_hotp R150). -/
def truncate (h : List Byte) : Nat :=
  let o := (h.getD 19 0 &&& 0x0F).toNat
  (be32At h o &&& 0x7FFFFFFF).toNat

/-- `Hotp(s, C, n)` (43_hotp R150). -/
def hotp (s : List Byte) (C : DWord) (n : BitVec 4) : Except CmdError Otp :=
  if n < 1 ∨ 9 < n then .error ⟨.codeLen, n.setWidth 32⟩
  else
    let code := truncate (hmacSha1 s (be64Bytes C)) % 10 ^ n.toNat
    .ok { code := code, digits := decimal code n.toNat }

end Sys2Proof.Machine
end

