-- ==== Sys2Proof/Machine/Totp.lean ====
section
/-! DEFINITION. The TOTP unit, `TotpCounter` of 44_totp R161. -/

namespace Sys2Proof.Machine

/-- `TotpCounter(T, T0, X)` (44_totp R161). -/
def totpCounter (T T0 : DWord) (X : Word) : Except CmdError DWord :=
  if X = 0 then .error ⟨.timeRange, 1⟩
  else if T < T0 then .error ⟨.timeRange, 2⟩
  else .ok (BitVec.ofNat 64 ((T.toNat - T0.toNat) / X.toNat))

/-- The code of a timestamp: the counter and the code of that counter, or the first error
(44_totp R162, R163: the counter is checked before the code length). -/
def totp (s : List Byte) (T T0 : DWord) (X : Word) (n : BitVec 4) : Except CmdError (DWord × Otp) :=
  match totpCounter T T0 X with
  | .error e => .error e
  | .ok c =>
    match hotp s c n with
    | .error e => .error e
    | .ok r => .ok (c, r)

end Sys2Proof.Machine
end

