-- ==== Sys2Proof/Machine/WorkingState.lean ====
section
/-! DEFINITION. What each unit leaves in the engine's working state (10_state R40). No host access reads it and no
command reads it before writing it. Log 11. -/

namespace Sys2Proof.Machine

/-- After `Sha1(m)` (40_sha1 R116). -/
def Work.afterSha1 (w : Work) (m : List Byte) : Work := { w with sha := runSha1 m }

/-- After `HmacSha1(k, m)`, whose last hash is the outer one (41_hmac R130). -/
def Work.afterHmac (w : Work) (k m : List Byte) : Work :=
  { w with
    sha := runSha1 (hmacOuterText k m)
    k0 := hmacKey k
    inner := sha1 (hmacInnerText k m) }

/-- After `Base32Decode(t, src)`, at its end or where it stopped (42_base32 R141). -/
def Work.afterBase32 (w : Work) (t : List Byte) (src : BitVec 2) : Work :=
  let d := (runBase32 src t).1
  { w with acc := BitVec.ofNat 12 d.acc, nbits := BitVec.ofNat 4 d.nbits }

/-- After `Hotp(s, C, n)`: the HMAC runs only for a legal length (43_hotp R150). -/
def Work.afterHotp (w : Work) (k : List Byte) (C : DWord) (n : BitVec 4) : Work :=
  match hotp k C n with
  | .ok _ => w.afterHmac k (be64Bytes C)
  | .error _ => w

/-- After the counter and its code (44_totp R161). -/
def Work.afterTotp (w : Work) (k : List Byte) (T T0 : DWord) (X : Word) (n : BitVec 4) : Work :=
  match totpCounter T T0 X with
  | .ok c => w.afterHotp k c n
  | .error _ => w

/-- After `ResolveSecret(b32)` (43_hotp R152). -/
def State.workAfterSecret (s : State) (b32 : Bool) : Work :=
  match s.keyBytes with
  | .ok t => if b32 then s.work.afterBase32 t 2 else s.work
  | .error _ => s.work

/-- After HOTP (43_hotp R151). -/
def State.workAfterHotp (s : State) (b32 : Bool) : Work :=
  match s.resolveSecret b32 with
  | .ok k => (s.workAfterSecret b32).afterHotp k s.counter s.codeLen
  | .error _ => s.workAfterSecret b32

/-- After TOTP (44_totp R162). -/
def State.workAfterTotp (s : State) (b32 : Bool) : Work :=
  match s.resolveSecret b32 with
  | .ok k => (s.workAfterSecret b32).afterTotp k s.time s.epoch s.timeStep s.codeLen
  | .error _ => s.workAfterSecret b32

/-- After GETCODE (44_totp R163). -/
def State.workAfterGetcode (s : State) (dflt : Bool) : Work :=
  match s.getcodeText dflt with
  | .ok (t, src) =>
    match base32Decode t src with
    | .ok k => (s.work.afterBase32 t src).afterTotp k s.now s.epoch s.timeStep s.codeLen
    | .error _ => s.work.afterBase32 t src
  | .error _ => s.work

end Sys2Proof.Machine
end

