-- ==== Sys2Proof/Machine/Base32Command.lean ====
section
/-! DEFINITION. The command B32DEC (42_base32 R142). -/

namespace Sys2Proof.Machine

/-- B32DEC's result, or its first error (42_base32 R142). -/
def State.b32decBody (s : State) : Except CmdError Result := do
  let t ← s.message
  let r ← base32Decode t 1
  .ok ⟨r, 0, 0⟩

/-- The working state B32DEC leaves. -/
def State.workAfterB32dec (s : State) : Work :=
  match s.message with
  | .ok t => s.work.afterBase32 t 1
  | .error _ => s.work

/-- `B32DEC` (42_base32 R142). -/
def execB32dec (s : State) : Host.Outcome State Fault Refusal :=
  .next ({ s with work := s.workAfterB32dec }.conclude s.b32decBody)

end Sys2Proof.Machine
end

