-- ==== Sys2Proof/Machine/HashCommands.lean ====
section
/-! DEFINITION. The commands SHA1 (40_sha1 R117) and HMAC (41_hmac R131). -/

namespace Sys2Proof.Machine

/-- SHA1's result, or its first error (40_sha1 R117). -/
def State.sha1Body (s : State) : Except CmdError Result := do
  let m ← s.message
  .ok ⟨sha1 m, 0, 0⟩

/-- The working state SHA1 leaves. -/
def State.workAfterSha1 (s : State) : Work :=
  match s.message with
  | .ok m => s.work.afterSha1 m
  | .error _ => s.work

/-- `SHA1` (40_sha1 R117). -/
def execSha1 (s : State) : Host.Outcome State Fault Refusal :=
  .next ({ s with work := s.workAfterSha1 }.conclude s.sha1Body)

/-- HMAC's result, or its first error: MSG's length is checked before KEY's (41_hmac R131). -/
def State.hmacBody (s : State) : Except CmdError Result := do
  let m ← s.message
  let k ← s.keyBytes
  .ok ⟨hmacSha1 k m, 0, 0⟩

/-- The working state HMAC leaves. -/
def State.workAfterHmac (s : State) : Work :=
  match s.message, s.keyBytes with
  | .ok m, .ok k => s.work.afterHmac k m
  | _, _ => s.work

/-- `HMAC` (41_hmac R131). -/
def execHmac (s : State) : Host.Outcome State Fault Refusal :=
  .next ({ s with work := s.workAfterHmac }.conclude s.hmacBody)

end Sys2Proof.Machine
end

