-- ==== Sys2Proof/Machine/OtpCommands.lean ====
section
/-! DEFINITION. The commands HOTP (43_hotp R151), TOTP (44_totp R162) and GETCODE (44_totp R163, R164). -/

namespace Sys2Proof.Machine

/-- The result of a command that gives a code: OUT the digits, CODE the value, LCNT the counter. -/
def Otp.result (r : Otp) (c : DWord) : Result := ⟨r.digits, BitVec.ofNat 32 r.code, c⟩

/-- HOTP's result, or its first error (43_hotp R151). -/
def State.hotpBody (s : State) (b32 : Bool) : Except CmdError Result := do
  let k ← s.resolveSecret b32
  let r ← hotp k s.counter s.codeLen
  .ok (r.result s.counter)

/-- `HOTP` and `HOTP.B32` (43_hotp R151). -/
def execHotp (b32 : Bool) (s : State) : Host.Outcome State Fault Refusal :=
  .next ({ s with work := s.workAfterHotp b32 }.conclude (s.hotpBody b32))

/-- TOTP's result, or its first error (44_totp R162). -/
def State.totpBody (s : State) (b32 : Bool) : Except CmdError Result := do
  let k ← s.resolveSecret b32
  let (c, r) ← totp k s.time s.epoch s.timeStep s.codeLen
  .ok (r.result c)

/-- `TOTP` and `TOTP.B32` (44_totp R162). -/
def execTotp (b32 : Bool) (s : State) : Host.Outcome State Fault Refusal :=
  .next ({ s with work := s.workAfterTotp b32 }.conclude (s.totpBody b32))

/-- `body()` of GETCODE: its result, or the error it catches (44_totp R163). -/
def State.getcodeBody (s : State) (dflt : Bool) : Except CmdError Result := do
  let (t, src) ← s.getcodeText dflt
  let k ← base32Decode t src
  let (c, r) ← totp k s.now s.epoch s.timeStep s.codeLen
  .ok (r.result c)

/-- `GETCODE` and `GETCODE.DEF` (44_totp R163, R164). -/
def execGetcode (dflt : Bool) (s : State) : Host.Outcome State Fault Refusal :=
  .next ({ s with work := s.workAfterGetcode dflt }.concludeCaught (s.getcodeBody dflt))

end Sys2Proof.Machine
end

