-- ==== Sys2Proof/Machine/Dispatch.lean ====
section
/-! DEFINITION. One arm per command (60_exceptions R183, `complete`). -/

namespace Sys2Proof.Machine

/-- The completion of a legal command (60_exceptions R183). -/
def exec (i : Instr) (s : State) : Host.Outcome State Fault Refusal :=
  match i with
  | .sha1 => Sys2Proof.Machine.execSha1 s
  | .hmac => Sys2Proof.Machine.execHmac s
  | .b32dec => Sys2Proof.Machine.execB32dec s
  | .hotp b32 => Sys2Proof.Machine.execHotp b32 s
  | .totp b32 => Sys2Proof.Machine.execTotp b32 s
  | .getcode dflt => Sys2Proof.Machine.execGetcode dflt s

end Sys2Proof.Machine
end

