-- ==== Sys2Proof/Machine/Engine.lean ====
section
/-! DEFINITION. The engine's step and the environment's events (60_exceptions R183, 00_scope R18, 70_reset R210). -/

namespace Sys2Proof.Machine

/-- `complete()` (60_exceptions R183): the latched word's command, or ILLEGAL_CMD with the word as information. -/
def State.complete (s : State) : Host.Outcome State Fault Refusal :=
  match decode s.cmd with
  | .ok i => exec i s
  | .error _ => .next (s.raise ⟨.illegalCmd, s.cmd⟩)

/-- The engine's turn: completion, enabled exactly while BUSY; nothing moves while IDLE
(60_exceptions R183, 00_scope R18). -/
def State.engineTurn (s : State) : Host.Outcome State Fault Refusal :=
  if s.busy then s.complete else .next s

/-- One event of the schedule (log 8). -/
def State.event (s : State) : Input → Host.Outcome State Fault Refusal
  | .access x => .next (s.bus x)
  | .engine => s.engineTurn
  | .driveNow v => .next { s with nowIn := v }
  | .powerOn => .next s.powerOn

/-- What moves next: the first event of the schedule, or the engine when no event is left (log 8). -/
def State.move (s : State) : Host.Outcome State Fault Refusal :=
  match s.inputs with
  | [] => s.engineTurn
  | e :: rest => { s with inputs := rest }.event e

end Sys2Proof.Machine
end

