-- ==== Sys2Proof/Machine/Step.lean ====
section
/-! DEFINITION. One step of the machine, and the placing of a command word where the next step runs it. -/

namespace Sys2Proof.Machine

/-- One step. A model refuses an ill-formed parameter set (00_scope R9; log 3). -/
def step (s : State) : Host.Outcome State Fault Refusal :=
  if s.params.wf then s.move else .refused .badParameters

/-- The command word `w` accepted (20_memory R69) and the engine's turn next, so that the next step completes
exactly it. Log 12. -/
def State.withFetchWord (s : State) (nbits w : Nat) : State :=
  { s.accept (BitVec.ofNat 32 (w % 2 ^ nbits)) with inputs := .engine :: s.inputs }

end Sys2Proof.Machine
end

