-- ==== Sys2Proof/Machine/HostProgram.lean ====
section
/-! DEFINITION. Host programs: the bus operations and polling loops of 30_encoding R97 and R98, the accesses each
pseudo-instruction expands to, and a program's run beside the engine. -/

namespace Sys2Proof.Machine

/-- `WR32 off, v` (30_encoding R97). -/
def wr32 (off : Nat) (v : Word) : Access := ⟨.write v, BitVec.ofNat 18 off, 4⟩

/-- `WR8 off, v` (30_encoding R97). -/
def wr8 (off : Nat) (v : Byte) : Access := ⟨.write (v.setWidth 32), BitVec.ofNat 18 off, 1⟩

/-- `RD32 off` (30_encoding R97). -/
def rd32 (off : Nat) : Access := ⟨.read, BitVec.ofNat 18 off, 4⟩

/-- `RD8 off` (30_encoding R97). -/
def rd8 (off : Nat) : Access := ⟨.read, BitVec.ofNat 18 off, 1⟩

/-- `CMD m` (30_encoding R98). -/
def cmdOp (i : Instr) : List Access := [wr32 0x010 (encode i)]

/-- `CLRDONE` (30_encoding R98). -/
def clrDoneOp : List Access := [wr32 0x00C 0x00000002]

/-- `SET64 lo_off, v` (30_encoding R98). -/
def set64Op (lo : Nat) (v : DWord) : List Access :=
  [wr32 lo (v.extractLsb' 0 32), wr32 (lo + 4) (v.extractLsb' 32 32)]

/-- The data writes of `LOAD`: one `WR32` for each whole group of 4 bytes, then one `WR8` for each remaining byte
(30_encoding R98). -/
def loadData : Nat → List Byte → List Access
  | off, b0 :: b1 :: b2 :: b3 :: t => wr32 off (be32 b0 b1 b2 b3) :: loadData (off + 4) t
  | off, t => t.mapIdx fun j b => wr8 (off + j) b

/-- `LOAD BUF, bytes` for MSG and KEY, with the write of its length register; OUT has no LOAD (30_encoding R98). -/
def loadOp (b : Buf) (bytes : List Byte) : List Access :=
  match b with
  | .msg => loadData Buf.msg.base bytes ++ [wr32 0x018 (BitVec.ofNat 32 bytes.length)]
  | .key => loadData Buf.key.base bytes ++ [wr32 0x01C (BitVec.ofNat 32 bytes.length)]
  | .out => []

/-- `READOUT n` (30_encoding R98). -/
def readOutOp (n : Nat) : List Access := (List.range ((n + 3) / 4)).map fun j => rd32 (Buf.out.base + 4 * j)

/-! ## Running a host program -/

/-- An operation of a host program: one bus access, or the polling loop `WAIT` (30_encoding R97, R98). -/
inductive HostOp where
  /-- one access -/
  | access (x : Access)
  /-- `L: RD32 0x00C -> s ; if s[0] = 1 goto L` -/
  | wait
deriving DecidableEq, Repr

/-- Accesses as operations of a host program. -/
def accessOps (l : List Access) : List HostOp := l.map .access

/-- Bit 0 of the word that the last access read; a read that answers ERROR returns no data (20_memory R66). -/
def State.readBit0 (s : State) : Bool :=
  match s.answer with
  | some (.word w) => w.getLsbD 0
  | _ => false

/-- The host's turn: the program's next access. `WAIT` reads STATUS and stays where it is while the BUSY it read is 1
(30_encoding R98). -/
def hostTurn (s : State) : List HostOp → List HostOp × State
  | [] => ([], s)
  | .access x :: p => (p, s.bus x)
  | .wait :: p =>
    let t := s.bus (rd32 0x00C)
    (if t.readBit0 then .wait :: p else p, t)

/-- Who moves next while a host program runs: the program, or anything else (the engine, NOW, a reset). -/
inductive Turn where
  | host
  | event (e : Input)
deriving DecidableEq, Repr

/-- A host program's run under a schedule of turns: what is left of the program, and the state. The number of reads a
`WAIT` makes is the schedule's, which is the latency (30_encoding R98, 20_memory R75). -/
def runProgram : List Turn → List HostOp → State → Option (List HostOp × State)
  | [], p, s => some (p, s)
  | .host :: l, p, s => runProgram l (hostTurn s p).1 (hostTurn s p).2
  | .event e :: l, p, s =>
    match s.event e with
    | .next t => runProgram l p t
    | .fault _ => none
    | .refused _ => none

end Sys2Proof.Machine
end

