-- ==== Sys2Proof/Safety.lean ====
section
/-! DEFINITION. The terms claims use: what a host can see (00_scope R19), what a command may not touch
(60_exceptions R184), what every state of a run satisfies, and the runs themselves. -/

namespace Sys2Proof.Machine

/-- Everything a host or a platform sets and no command writes: the parameters, the input registers, CTRL, OVR, the
MSG and KEY buffers, and the environment's side (60_exceptions R183, R184; 20_memory R70, R82). -/
structure SameInputs (s t : State) : Prop where
  params : t.params = s.params
  ie : t.ie = s.ie
  ovr : t.ovr = s.ovr
  msgLen : t.msgLen = s.msgLen
  keyLen : t.keyLen = s.keyLen
  codeLen : t.codeLen = s.codeLen
  timeStep : t.timeStep = s.timeStep
  epochLo : t.epochLo = s.epochLo
  epochHi : t.epochHi = s.epochHi
  timeLo : t.timeLo = s.timeLo
  timeHi : t.timeHi = s.timeHi
  cntLo : t.cntLo = s.cntLo
  cntHi : t.cntHi = s.cntHi
  nowIn : t.nowIn = s.nowIn
  inputs : t.inputs = s.inputs
  answer : t.answer = s.answer
  /-- every byte of MSG and KEY, and every offset below OUT -/
  buffers : ∀ a, a < Buf.out.base → t.byteAt a = s.byteAt a

/-- The results a command leaves for the host: the error record, LOG, OUT_LEN, CODE and LCNT, with the engine
IDLE and DONE set (60_exceptions R183). -/
structure Completed (t : State) (err log : BitVec 4) (info : Word) (n : Nat) (code : Word) (lcnt : DWord) : Prop where
  busy : t.busy = false
  done : t.done = true
  err : t.err = err
  log : t.log = log
  errInfo : t.errInfo = info
  outLen : t.outLen = BitVec.ofNat 32 n
  code : t.code = code
  lcnt : t.lcntHi ++ t.lcntLo = lcnt

/-- A command failed with an error it reports: the record of `raise` (60_exceptions R183, R184). -/
abbrev Failed (s t : State) (e : ErrCode) (info : Word) : Prop :=
  SameInputs s t ∧ Completed t e.code s.log info 0 0 0

/-- A GETCODE caught an error (44_totp R164). -/
abbrev Caught (s t : State) (e : ErrCode) (info : Word) : Prop :=
  SameInputs s t ∧ Completed t 0 e.code info 0 0 0

/-- `t` holds `bytes` in OUT[0..len) (20_memory R82). -/
abbrev State.OutHolds (t : State) (bytes : List Byte) : Prop := t.memRead .out 0 bytes.length = bytes

/-- What a host can see of an idle block: every register, every buffer byte, and IRQ (00_scope R19). -/
structure SameView (s t : State) : Prop where
  regs : ∀ r, t.readReg r = s.readReg r
  bytes : ∀ a, t.byteAt a = s.byteAt a
  irq : t.irq = s.irq

/-- A window offset that a buffer byte stands behind (20_memory R61, R67). -/
def backed (p : Params) (a : Nat) : Prop := ∃ b : Buf, b.base ≤ a ∧ a < b.base + b.size p

/-- What every state of a run satisfies. -/
structure State.Inv (s : State) : Prop where
  /-- the memory is in canonical form -/
  mem_wf : s.mem.wf
  /-- only backed bytes are stored (20_memory R67) -/
  mem_backed : ∀ x ∈ s.mem, backed s.params x.1
  /-- no OUT byte at or past OUT_LEN has a known value (20_memory R82) -/
  out_below : ∀ x ∈ s.mem, Buf.out.base ≤ x.1 → x.1 < Buf.out.base + s.outLen.toNat
  /-- error codes 6 to 15 are never produced (60_exceptions R180) -/
  err_code : s.err ≤ 5
  /-- LOG holds an error a GETCODE can catch, never ILLEGAL_CMD (44_totp R164, 60_exceptions R186) -/
  log_code : s.log ≤ 5 ∧ s.log ≠ 3
  /-- DONE is 0 while BUSY (10_state R27) -/
  busy_done : s.busy = true → s.done = false
  /-- no command writes past the end of OUT (00_scope R9) -/
  outLen_le : s.outLen.toNat ≤ s.params.outBytes
  /-- after an error OUT_LEN, CODE and LCNT are 0 (60_exceptions R184) -/
  err_empty : s.err ≠ 0 → s.outLen = 0 ∧ s.code = 0 ∧ s.lcntHi = 0 ∧ s.lcntLo = 0
  /-- CODE is a code of at most nine digits (43_hotp R154) -/
  code_lt : s.code.toNat < 10 ^ 9

/-- The block after power-on with parameters `p`, NOW at `level`, and the schedule `l` to come. -/
def State.boot (p : Params) (level : DWord) (l : List Input) : State :=
  { State.reset with params := p, nowIn := level, inputs := l }

/-- The states a run reaches from `s`. -/
inductive Reaches : State → State → Prop where
  | refl (s : State) : Reaches s s
  | tail {s t u : State} : Reaches s t → step t = .next u → Reaches s u

/-- The states a run reaches from `s` with one command running all the way: every state, both ends included, is BUSY,
and a step can end a command or issue one, never both. -/
inductive WhileBusy : State → State → Prop where
  | refl {s : State} : s.busy = true → WhileBusy s s
  | tail {s t u : State} : WhileBusy s t → step t = .next u → u.busy = true → WhileBusy s u

/-! ## Vocabulary of the claims -/

/-- The engine moves next: no event is left, or the schedule says so (log 8). -/
abbrev State.EngineNext (s : State) : Prop := s.inputs = [] ∨ s.inputs.head? = some .engine

/-- The state after the host writes `v` to CMD. -/
abbrev State.issue (s : State) (v : Word) : State := s.bus ⟨.write v, 0x010, 4⟩

/-- A GETCODE runs in `u`, accepted while NOW was at `T` (20_memory R69). `T` is the draw that 60_exceptions R197 lets a
claim about GETCODE name: the level on the NOW input when its word was written to CMD. The events still to come are the
environment's, and any may follow (log 8). -/
def GetcodeRuns (d : Bool) (T : DWord) (u : State) : Prop :=
  ∃ (s t : State) (l : List Input), s.busy = false ∧ s.nowIn = T ∧ WhileBusy (s.issue (encode (.getcode d))) t ∧
    u = { t with inputs := l }

/-- The state with the first event taken off the schedule. -/
abbrev State.pop (s : State) : State := { s with inputs := s.inputs.tail }

/-- The next event is a legal host write of `v` to register `r`. -/
def State.NextWrites (s : State) (r : Reg) (v : Word) : Prop :=
  ∃ x, s.inputs.head? = some (.access x) ∧ x.target s.params = .reg r ∧ x.dir = .write v

/-- The next event is a reset: a write to CTRL with bit 1 set, or the power-on reset (70_reset R210). -/
def State.NextResets (s : State) : Prop :=
  (∃ v, s.NextWrites .ctrl v ∧ v.getLsbD 1 = true) ∨ s.inputs.head? = some .powerOn

/-- The secret HOTP and TOTP resolve to, raw or Base32 text (43_hotp R152). -/
def State.SecretIs (s : State) (b32 : Bool) (k : List Byte) : Prop :=
  s.keyLen.toNat ≤ s.params.keyBytes ∧
    (if b32 then base32Decode (s.memRead .key 0 s.keyLen.toNat) 2 = .ok k
     else k = s.memRead .key 0 s.keyLen.toNat)

/-- The Base32 text GETCODE reads, and its source tag (44_totp R163). -/
def State.TextIs (s : State) (dflt : Bool) (t : List Byte) (src : BitVec 2) : Prop :=
  if dflt then t = s.params.defaultSecret ∧ src = 3
  else s.keyLen.toNat ≤ s.params.keyBytes ∧ t = s.memRead .key 0 s.keyLen.toNat ∧ src = 2

/-- The code of a counter: the truncated HMAC reduced to `n` digits (43_hotp R150). -/
def codeOf (k : List Byte) (C : DWord) (n : Nat) : Nat := truncate (hmacSha1 k (be64Bytes C)) % 10 ^ n

/-- The first byte of a text that is neither a Base32 symbol nor a space is byte `c`, at index `i`
(42_base32 R140, R141). -/
def FirstInvalid (t : List Byte) (i : Nat) (c : Byte) : Prop :=
  t[i]? = some c ∧ c ≠ 0x20 ∧ base32Index c = none
    ∧ ∀ j d, j < i → t[j]? = some d → d = 0x20 ∨ base32Index d ≠ none

/-- An access that 20_memory R62 to R64 and R67 call legal. -/
def Access.Legal (p : Params) (x : Access) : Prop :=
  (x.size = 4 ∧ x.offset.toNat % 4 = 0 ∧ x.offset.toNat < 0x5C) ∨
  ∃ b : Buf, b.base ≤ x.offset.toNat ∧
    ((x.size = 1 ∧ x.offset.toNat < b.base + b.size p) ∨
     (x.size = 4 ∧ x.offset.toNat % 4 = 0 ∧ x.offset.toNat + 4 ≤ b.base + b.size p))

/-- Two states agree on every register, buffer byte and parameter that a command reads (20_memory R82, R85). The time a
GETCODE sampled is no host-visible state (00_scope R19): `GetcodeRuns` names it as the draw it is. -/
structure AgreeOnOperands (s t : State) : Prop where
  params : t.params = s.params
  msgLen : t.msgLen = s.msgLen
  keyLen : t.keyLen = s.keyLen
  codeLen : t.codeLen = s.codeLen
  timeStep : t.timeStep = s.timeStep
  epoch : t.epoch = s.epoch
  time : t.time = s.time
  counter : t.counter = s.counter
  buffers : ∀ a, a < Buf.out.base → t.byteAt a = s.byteAt a

/-- Two states show the same results of a command: the error record, OUT_LEN, CODE, LCNT and OUT[0..OUT_LEN). -/
structure SameResults (s t : State) : Prop where
  err : t.err = s.err
  errInfo : t.errInfo = s.errInfo
  outLen : t.outLen = s.outLen
  code : t.code = s.code
  lcnt : t.lcnt = s.lcnt
  out : t.memRead .out 0 t.outLen.toNat = s.memRead .out 0 s.outLen.toNat

/-- The reset column of 10_state R20. -/
def Reg.resetValue (p : Params) : Reg → Word
  | .id => 0x4F545031
  | .caps => 0x00091440
  | .cfg => 0x00000009
  | .timeStep => 0x0000001E
  | .msgSize => BitVec.ofNat 32 p.msgBytes
  | .keySize => BitVec.ofNat 32 p.keyBytes
  | .outSize => BitVec.ofNat 32 p.outBytes
  | _ => 0x00000000

/-- The registers that a write while BUSY is dropped for (20_memory R70). -/
def Reg.frozen : List Reg :=
  [.cmd, .msgLen, .keyLen, .cfg, .timeStep, .epochLo, .epochHi, .timeLo, .timeHi, .cntLo, .cntHi]

/-- The read-only registers (10_state R20). -/
def Reg.readOnly : List Reg :=
  [.id, .caps, .errInfo, .outLen, .code, .lcntLo, .lcntHi, .msgSize, .keySize, .outSize]

/-- The value of a list of base-`b` digits, the most significant first. -/
def digitsValue (b : Nat) (l : List Nat) : Nat := l.foldl (fun a d => b * a + d) 0

/-- An ASCII letter in upper case; any other byte as it is (42_base32 R140). -/
def upperCase (c : Byte) : Byte := if 0x61 ≤ c ∧ c ≤ 0x7A then c - 0x20 else c

/-- `n` steps, if each answers a next state. -/
def steps : Nat → State → Option State
  | 0, s => some s
  | n + 1, s =>
    match step s with
    | .next t => steps n t
    | .fault _ => none
    | .refused _ => none

end Sys2Proof.Machine
end

