-- ==== Sys2Proof/Certificates/Slice0/Obligations.lean ====
section
/-! DEFINITION. What is claimed of the machine. Each docstring names the rule of spec/ it formalises. -/

open Sys2Proof Sys2Proof.Machine

/-! ## Encoding -/

/-- 30_encoding R93, R94: a word decodes to a command exactly when it is that command's word. -/
def Obligations.DecodeAndEncodeAgree : Prop :=
  ∀ (w : Word) (i : Instr), decode w = .ok i ↔ encode i = w

/-- 30_encoding R93: the nine legal words, each with its row's match and mask, and no word matches two rows. -/
def Obligations.LegalWordsAreExactlyNine : Prop :=
  ∀ w : Word,
    (decode w = .ok .sha1 ↔ w = 0x00000001) ∧
    (decode w = .ok .hmac ↔ w = 0x00000002) ∧
    (decode w = .ok .b32dec ↔ w = 0x00000003) ∧
    (decode w = .ok (.hotp false) ↔ w = 0x00000004) ∧
    (decode w = .ok (.hotp true) ↔ w = 0x00000104) ∧
    (decode w = .ok (.totp false) ↔ w = 0x00000005) ∧
    (decode w = .ok (.totp true) ↔ w = 0x00000105) ∧
    (decode w = .ok (.getcode false) ↔ w = 0x00000006) ∧
    (decode w = .ok (.getcode true) ↔ w = 0x00000206) ∧
    (w &&& 0xFFFFFFFF = 0x00000001 ↔ decode w = .ok .sha1) ∧
    (w &&& 0xFFFFFFFF = 0x00000002 ↔ decode w = .ok .hmac) ∧
    (w &&& 0xFFFFFFFF = 0x00000003 ↔ decode w = .ok .b32dec) ∧
    (w &&& 0xFFFFFEFF = 0x00000004 ↔ ∃ b, decode w = .ok (.hotp b)) ∧
    (w &&& 0xFFFFFEFF = 0x00000005 ↔ ∃ b, decode w = .ok (.totp b)) ∧
    (w &&& 0xFFFFFDFF = 0x00000006 ↔ ∃ d, decode w = .ok (.getcode d))

/-- 30_encoding R91, R93: words written out from the field table, OP in bits 7..0, B32 bit 8, DEF bit 9. -/
def Obligations.WrittenOutWordsDecode : Prop :=
  decode 0b00000000000000000000000000000001#32 = .ok .sha1 ∧
  decode 0b00000000000000000000000000000010#32 = .ok .hmac ∧
  decode 0b00000000000000000000000000000011#32 = .ok .b32dec ∧
  decode 0b00000000000000000000000100000100#32 = .ok (.hotp true) ∧
  decode 0b00000000000000000000000000000101#32 = .ok (.totp false) ∧
  decode 0b00000000000000000000001000000110#32 = .ok (.getcode true)

/-- 30_encoding R95: a word is illegal exactly when it is in one of the five listed classes. -/
def Obligations.IllegalWordsAreTheListedClasses : Prop :=
  ∀ w : Word,
    (∃ c, decode w = .error c) ↔
      (CW.ofWord w).op = 0x00 ∨ 0x07 ≤ (CW.ofWord w).op ∨ (CW.ofWord w).rsv ≠ 0 ∨
      ((CW.ofWord w).b32 = true ∧ (CW.ofWord w).op ∈ [0x01, 0x02, 0x03, (0x06 : BitVec 8)]) ∨
      ((CW.ofWord w).dflt = true ∧ (CW.ofWord w).op ∈ [0x01, 0x02, 0x03, 0x04, (0x05 : BitVec 8)])

/-! ## The step -/

/-- 60_exceptions R183, 30_encoding R94: while the command that a write to CMD issued runs, the engine's step is the
completion of the command the word written decodes to; every BUSY block that a run reaches from an IDLE one runs a command
so issued; every BUSY block has such a word; the step takes the event it
used off the schedule (the model's, log 8). A word placed by `withFetchWord` (the model's, log 12) is the one completed. -/
def Obligations.StepRunsTheDecodedCommand : Prop :=
  (∀ (s t : State) (v : Word) (i : Instr), s.params.wf = true → s.busy = false → decode v = .ok i →
    WhileBusy (s.issue v) t → t.EngineNext → step t = exec i t.pop) ∧
  (∀ s t : State, s.busy = false → Reaches s t → t.busy = true →
    ∃ (a : State) (v : Word), a.busy = false ∧ WhileBusy (a.issue v) t) ∧
  (∀ s : State, s.params.wf = true → s.busy = true → s.EngineNext →
    ∃ v : Word, (∀ i, decode v = .ok i → step s = exec i s.pop) ∧
      ∀ c, decode v = .error c → ∃ t, step s = .next t ∧ Failed s.pop t .illegalCmd v) ∧
  (∀ (s : State) (nbits w : Nat) (i : Instr), s.params.wf = true → decodeTableWord nbits w = some i →
    step (s.withFetchWord nbits w) = exec i (s.accept (BitVec.ofNat 32 (w % 2 ^ nbits))))

/-- 60_exceptions R180 to R184, 30_encoding R94, R95: an illegal word written to CMD completes with ILLEGAL_CMD, ERRINFO
the word, whatever else happened while it was pending. -/
def Obligations.IllegalWordCompletesWithItsWord : Prop :=
  ∀ (s t : State) (v : Word) (c : Illegal), s.params.wf = true → s.busy = false → decode v = .error c →
    WhileBusy (s.issue v) t → t.EngineNext → ∃ u, step t = .next u ∧ Failed t.pop u .illegalCmd v

/-- 60_exceptions R183, 20_memory R76: the engine's turn ends a BUSY command, whatever its word. -/
def Obligations.EngineTurnEndsTheCommand : Prop :=
  ∀ s : State, s.params.wf = true → s.busy = true → s.EngineNext →
    ∃ t, step s = .next t ∧ t.busy = false ∧ t.done = true ∧ t.irq = s.ie ∧ SameInputs s.pop t

/-- 00_scope R8, R9, 44_totp R166: a parameter set outside the ranges is refused (the model refuses the step, log 3). -/
def Obligations.IllFormedParametersAreRefused : Prop :=
  ∀ s : State,
    ¬ (64 ≤ s.params.msgBytes ∧ s.params.msgBytes ≤ 65536 ∧ s.params.msgBytes % 4 = 0 ∧
       1 ≤ s.params.keyBytes ∧ s.params.keyBytes ≤ 65536 ∧ s.params.keyBytes % 4 = 0 ∧
       s.params.msgBytes ≤ s.params.outBytes ∧ s.params.keyBytes ≤ s.params.outBytes ∧ 20 ≤ s.params.outBytes ∧
       s.params.outBytes ≤ 65536 ∧ s.params.outBytes % 4 = 0 ∧
       18 ≤ s.params.frag1.length + s.params.frag2.length) →
    step s = .refused .badParameters

/-- 20_memory R67, R82; 60_exceptions R180, R184; 10_state R27; 00_scope R9; 43_hotp R154: every step keeps the
invariant, from every state that has it. -/
def Obligations.StepKeepsTheInvariant : Prop :=
  ∀ s t : State, s.Inv → step s = .next t → t.Inv

/-- The invariant holds right after power-on, for every parameter set, NOW level and schedule. -/
def Obligations.BootMeetsTheInvariant : Prop :=
  State.reset.Inv ∧ ∀ (p : Params) (level : DWord) (l : List Input), (State.boot p level l).Inv

/-! ## The commands: where each completes, and with what -/

/-- 40_sha1 R117: SHA1 with a message that fits. -/
def Obligations.Sha1GivesTheDigest : Prop :=
  ∀ s : State, s.msgLen.toNat ≤ s.params.msgBytes →
    ∃ t, exec .sha1 s = .next t ∧ SameInputs s t ∧ Completed t 0 s.log 0 20 0 0 ∧
      t.OutHolds (sha1 (s.memRead .msg 0 s.msgLen.toNat))

/-- 41_hmac R131: HMAC with a message and a key that fit. -/
def Obligations.HmacGivesTheCode : Prop :=
  ∀ s : State, s.msgLen.toNat ≤ s.params.msgBytes → s.keyLen.toNat ≤ s.params.keyBytes →
    ∃ t, exec .hmac s = .next t ∧ SameInputs s t ∧ Completed t 0 s.log 0 20 0 0 ∧
      t.OutHolds (hmacSha1 (s.memRead .key 0 s.keyLen.toNat) (s.memRead .msg 0 s.msgLen.toNat))

/-- 42_base32 R142: B32DEC with a text that decodes, to any number of bytes. -/
def Obligations.B32decGivesTheBytes : Prop :=
  ∀ (s : State) (r : List Byte), s.msgLen.toNat ≤ s.params.msgBytes →
    base32Decode (s.memRead .msg 0 s.msgLen.toNat) 1 = .ok r →
    ∃ t, exec .b32dec s = .next t ∧ SameInputs s t ∧ Completed t 0 s.log 0 r.length 0 0 ∧ t.OutHolds r

/-- 43_hotp R150 to R152: HOTP, raw and Base32, with a secret that resolves and a legal length. CNT is not
incremented (60_exceptions R198): it is among the inputs that stand. -/
def Obligations.HotpGivesTheCode : Prop :=
  ∀ (s : State) (b32 : Bool) (k : List Byte), s.SecretIs b32 k → 1 ≤ s.codeLen → s.codeLen ≤ 9 →
    ∃ t, exec (.hotp b32) s = .next t ∧ SameInputs s t ∧
      Completed t 0 s.log 0 s.codeLen.toNat (BitVec.ofNat 32 (codeOf k s.counter s.codeLen.toNat)) s.counter ∧
      t.OutHolds (decimal (codeOf k s.counter s.codeLen.toNat) s.codeLen.toNat)

/-- 44_totp R161, R162: TOTP, raw and Base32, in the window of its timestamp. -/
def Obligations.TotpGivesTheCode : Prop :=
  ∀ (s : State) (b32 : Bool) (k : List Byte) (c : DWord), s.SecretIs b32 k → 1 ≤ s.codeLen → s.codeLen ≤ 9 →
    s.timeStep ≠ 0 → s.epoch ≤ s.time →
    c = BitVec.ofNat 64 ((s.time.toNat - s.epoch.toNat) / s.timeStep.toNat) →
    ∃ t, exec (.totp b32) s = .next t ∧ SameInputs s t ∧
      Completed t 0 s.log 0 s.codeLen.toNat (BitVec.ofNat 32 (codeOf k c s.codeLen.toNat)) c ∧
      t.OutHolds (decimal (codeOf k c s.codeLen.toNat) s.codeLen.toNat)

/-- 44_totp R163: GETCODE, from KEY and from DEFAULT_SECRET, in the window of NOW at its acceptance, for every such draw
(60_exceptions R197). LOG is cleared. -/
def Obligations.GetcodeGivesTheCode : Prop :=
  ∀ (s : State) (dflt : Bool) (T : DWord) (text k : List Byte) (src : BitVec 2) (c : DWord), GetcodeRuns dflt T s →
    s.TextIs dflt text src → base32Decode text src = .ok k → 1 ≤ s.codeLen → s.codeLen ≤ 9 → s.timeStep ≠ 0 →
    s.epoch ≤ T → c = BitVec.ofNat 64 ((T.toNat - s.epoch.toNat) / s.timeStep.toNat) →
    ∃ t, exec (.getcode dflt) s = .next t ∧ SameInputs s t ∧
      Completed t 0 0 0 s.codeLen.toNat (BitVec.ofNat 32 (codeOf k c s.codeLen.toNat)) c ∧
      t.OutHolds (decimal (codeOf k c s.codeLen.toNat) s.codeLen.toNat)

/-! ## The commands: which error each reports, in the order of 60_exceptions R182 -/

/-- 60_exceptions R182 items 2 and 3: LENGTH on MSG comes before LENGTH on KEY, and both before anything else.
GETCODE catches its own; GETCODE.DEF reads no KEY and has no such error. -/
def Obligations.LengthErrorsComeFirst : Prop :=
  (∀ s : State, s.params.msgBytes < s.msgLen.toNat → ∀ i ∈ [Instr.sha1, .hmac, .b32dec],
    ∃ t, exec i s = .next t ∧ Failed s t .length 1) ∧
  (∀ s : State, s.params.keyBytes < s.keyLen.toNat →
    (s.msgLen.toNat ≤ s.params.msgBytes → ∃ t, exec .hmac s = .next t ∧ Failed s t .length 2) ∧
    (∀ b, ∃ t, exec (.hotp b) s = .next t ∧ Failed s t .length 2) ∧
    (∀ b, ∃ t, exec (.totp b) s = .next t ∧ Failed s t .length 2) ∧
    (∃ t, exec (.getcode false) s = .next t ∧ Caught s t .length 2))

/-- 60_exceptions R181, R182 item 4; 42_base32 R141: the first invalid byte of the text, with its source tag, is
reported, whatever the time and the code length. -/
def Obligations.Base32ErrorNamesTheFirstInvalidByte : Prop :=
  ∀ (s : State) (i : Nat) (c : Byte), s.params.wf = true →
    (s.msgLen.toNat ≤ s.params.msgBytes → FirstInvalid (s.memRead .msg 0 s.msgLen.toNat) i c →
      ∃ t, exec .b32dec s = .next t ∧
        Failed s t .base32Char (BitVec.ofNat 32 (0x01000000 + c.toNat * 0x10000 + i))) ∧
    (s.keyLen.toNat ≤ s.params.keyBytes → FirstInvalid (s.memRead .key 0 s.keyLen.toNat) i c →
      (∃ t, exec (.hotp true) s = .next t ∧
        Failed s t .base32Char (BitVec.ofNat 32 (0x02000000 + c.toNat * 0x10000 + i))) ∧
      (∃ t, exec (.totp true) s = .next t ∧
        Failed s t .base32Char (BitVec.ofNat 32 (0x02000000 + c.toNat * 0x10000 + i))) ∧
      (∃ t, exec (.getcode false) s = .next t ∧
        Caught s t .base32Char (BitVec.ofNat 32 (0x02000000 + c.toNat * 0x10000 + i)))) ∧
    (FirstInvalid s.params.defaultSecret i c →
      ∃ t, exec (.getcode true) s = .next t ∧
        Caught s t .base32Char (BitVec.ofNat 32 (0x03000000 + c.toNat * 0x10000 + i)))

/-- 60_exceptions R182 item 5; 44_totp R161: TIME_RANGE, step zero before the epoch, whatever the code length. -/
def Obligations.TimeRangeErrorsComeBeforeCodeLength : Prop :=
  (∀ (s : State) (b32 : Bool) (k : List Byte), s.SecretIs b32 k →
    (s.timeStep = 0 → ∃ t, exec (.totp b32) s = .next t ∧ Failed s t .timeRange 1) ∧
    (s.timeStep ≠ 0 → s.time < s.epoch → ∃ t, exec (.totp b32) s = .next t ∧ Failed s t .timeRange 2)) ∧
  (∀ (s : State) (dflt : Bool) (text k : List Byte) (src : BitVec 2), s.TextIs dflt text src →
    base32Decode text src = .ok k →
    (s.timeStep = 0 → ∃ t, exec (.getcode dflt) s = .next t ∧ Caught s t .timeRange 1) ∧
    (∀ T, GetcodeRuns dflt T s → s.timeStep ≠ 0 → T < s.epoch →
      ∃ t, exec (.getcode dflt) s = .next t ∧ Caught s t .timeRange 2))

/-- 60_exceptions R182 item 6; 43_hotp R150: CODE_LEN outside 1..9 fails when nothing before it did. -/
def Obligations.CodeLengthErrorsComeLast : Prop :=
  ∀ s : State, s.codeLen < 1 ∨ 9 < s.codeLen →
    (∀ (b32 : Bool) (k : List Byte), s.SecretIs b32 k →
      (∃ t, exec (.hotp b32) s = .next t ∧ Failed s t .codeLen (s.codeLen.setWidth 32)) ∧
      (s.timeStep ≠ 0 → s.epoch ≤ s.time →
        ∃ t, exec (.totp b32) s = .next t ∧ Failed s t .codeLen (s.codeLen.setWidth 32))) ∧
    (∀ (dflt : Bool) (text k : List Byte) (src : BitVec 2), s.TextIs dflt text src →
      base32Decode text src = .ok k → s.timeStep ≠ 0 → (∃ T, GetcodeRuns dflt T s ∧ s.epoch ≤ T) →
      ∃ t, exec (.getcode dflt) s = .next t ∧ Caught s t .codeLen (s.codeLen.setWidth 32))

/-- 44_totp R164, 60_exceptions R186, 70_reset R219: GETCODE reports no error of its own, and a host tells a caught
failure by OUT_LEN = 0, or by LOG. -/
def Obligations.GetcodeIsTheRecoveryBoundary : Prop :=
  ∀ (d : Bool) (s t : State), exec (.getcode d) s = .next t →
    t.err = 0 ∧ (t.outLen = 0 ↔ t.log ≠ 0) ∧ (t.log = 0 → t.errInfo = 0) ∧
      (t.log ≠ 0 → t.code = 0 ∧ t.lcnt = 0)

/-! ## The commands: what each leaves alone -/

/-- 60_exceptions R183, R184; 10_state R43; 20_memory R82: every command answers a next state, in which every input,
CTRL, OVR and every MSG and KEY byte stand, and LOG too unless the command is GETCODE; OUT holds a result of OUT_LEN
bytes and no byte past it has a known value. -/
def Obligations.CompletionChangesOnlyResults : Prop :=
  ∀ (i : Instr) (s : State), ∃ t, exec i s = .next t ∧ SameInputs s t ∧ t.busy = false ∧ t.done = true ∧
    ((∀ d, i ≠ .getcode d) → t.log = s.log) ∧
    (s.params.wf = true → ∀ a, Buf.out.base + t.outLen.toNat ≤ a → t.mem.find a = none) ∧
    (t.err ≠ 0 → t.outLen = 0 ∧ t.code = 0 ∧ t.lcnt = 0)

/-- 44_totp R165, 00_scope R15, 60_exceptions R184: a command's results depend on its operands alone, not on earlier
results, on LOG or OVR, or on the interrupt enable: only what AgreeOnOperands lists plays a part, and for GETCODE NOW at
its acceptance. -/
def Obligations.ResultsDependOnOperandsAlone : Prop :=
  ∀ (i : Instr) (s s' t t' : State), s.params.wf = true → AgreeOnOperands s s' →
    (∀ d, i = .getcode d → ∃ T, GetcodeRuns d T s ∧ GetcodeRuns d T s') →
    exec i s = .next t → exec i s' = .next t' →
    SameResults t t' ∧ (∀ d, i = .getcode d → t'.log = t.log)

/-- 44_totp R165: two timestamps in the same window give the same OUT, CODE and LCNT, for TOTP and for GETCODE. -/
def Obligations.SameWindowGivesTheSameCode : Prop :=
  (∀ (b32 : Bool) (s t t' : State) (lo hi : Word), s.timeStep ≠ 0 → s.epoch ≤ s.time → s.epoch ≤ pair hi lo →
    (s.time.toNat - s.epoch.toNat) / s.timeStep.toNat = ((pair hi lo).toNat - s.epoch.toNat) / s.timeStep.toNat →
    exec (.totp b32) s = .next t → exec (.totp b32) { s with timeLo := lo, timeHi := hi } = .next t' →
    SameResults t t') ∧
  (∀ (d : Bool) (s s' t t' : State) (T T' : DWord), s.params.wf = true → AgreeOnOperands s s' →
    GetcodeRuns d T s → GetcodeRuns d T' s' → s.timeStep ≠ 0 → s.epoch ≤ T → s.epoch ≤ T' →
    (T.toNat - s.epoch.toNat) / s.timeStep.toNat = (T'.toNat - s.epoch.toNat) / s.timeStep.toNat →
    exec (.getcode d) s = .next t → exec (.getcode d) s' = .next t' →
    SameResults t t' ∧ t'.log = t.log)

/-! ## The units -/

/-- 40_sha1 R111: the padded message is the message, 0x80, the least number of zero bytes, and the bit length; it is
N = floor((len + 8) / 64) + 1 blocks, which together are all of it. -/
def Obligations.PaddingFillsWholeBlocks : Prop :=
  ∀ m : List Byte, ∃ z,
    pad m = m ++ [0x80] ++ List.replicate z 0x00 ++ be64Bytes (BitVec.ofNat 64 (8 * m.length)) ∧
    (m.length + 1 + z) % 64 = 56 ∧ (∀ z', (m.length + 1 + z') % 64 = 56 → z ≤ z') ∧
    (pad m).length = 64 * ((m.length + 8) / 64 + 1) ∧
    (blocksOf ((pad m).length / 64) (pad m)).length = sha1Blocks m.length ∧
    (blocksOf ((pad m).length / 64) (pad m)).flatten = pad m ∧
    ∀ B ∈ blocksOf ((pad m).length / 64) (pad m), B.length = 64

/-- 40_sha1 R113: the recurrence of the message schedule. -/
def Obligations.ScheduleFollowsItsRecurrence : Prop :=
  ∀ B : List Byte, (schedule B).length = 80 ∧
    (∀ i, i < 16 → (schedule B).getD i 0 = be32At B (4 * i)) ∧
    (∀ i, 16 ≤ i → i < 80 → (schedule B).getD i 0 =
      rotl32 ((schedule B).getD (i - 3) 0 ^^^ (schedule B).getD (i - 8) 0 ^^^ (schedule B).getD (i - 14) 0
        ^^^ (schedule B).getD (i - 16) 0) 1)

/-- 40_sha1 R118, 00_scope R12: `rotl32` moves bits circularly and loses none. -/
def Obligations.RotationLosesNoBit : Prop :=
  ∀ (x : Word) (n i : Nat), 1 ≤ n → n ≤ 31 → i < 32 → (rotl32 x n).getLsbD ((i + n) % 32) = x.getLsbD i

/-- 41_hmac R130, R132: keys of at most 64 bytes that differ in trailing zero bytes are the same key, and a longer key
is its digest. -/
def Obligations.HmacKeysAreZeroPaddedOrHashed : Prop :=
  (∀ (k m : List Byte) (z : Nat), k.length + z ≤ 64 → hmacSha1 (k ++ List.replicate z 0x00) m = hmacSha1 k m) ∧
  (∀ k m : List Byte, 64 < k.length → hmacSha1 k m = hmacSha1 (sha1 k) m)

/-- 42_base32 R140, R141: the decoded bytes are the 5-bit indices of the symbols, in order, regrouped into bytes: floor(5q/8)
of them for q symbols, and as one number the indices' number less its leftover low bits. -/
def Obligations.Base32RegroupsTheSymbolsBits : Prop :=
  ∀ (t out : List Byte) (src : BitVec 2), base32Decode t src = .ok out →
    out.length = 5 * (t.filterMap base32Index).length / 8 ∧
    digitsValue 256 (out.map BitVec.toNat) =
      digitsValue 32 (t.filterMap base32Index) / 2 ^ (5 * (t.filterMap base32Index).length % 8)

/-- 42_base32 R141: decoding fails exactly when the text has a byte that is neither a symbol nor a space, and the error
names the first one. -/
def Obligations.Base32FailsAtTheFirstInvalidByte : Prop :=
  ∀ (t : List Byte) (src : BitVec 2) (e : CmdError),
    base32Decode t src = .error e ↔ ∃ i c, FirstInvalid t i c ∧ e = ⟨.base32Char, base32Info src c i⟩

/-- 42_base32 R140: letters fold, and spaces are skipped. -/
def Obligations.Base32FoldsCaseAndSkipsSpaces : Prop :=
  ∀ (t : List Byte) (src : BitVec 2),
    base32Decode (t.map upperCase) src = base32Decode t src ∧
    ∀ out, base32Decode t src = .ok out → base32Decode (t.filter fun c => c ≠ 0x20) src = .ok out

/-- 43_hotp R153: the digits are the decimal digits of the code, most significant first, as ASCII bytes. -/
def Obligations.DecimalIsTheCodesDigits : Prop :=
  ∀ code n : Nat, code < 10 ^ n → 1 ≤ n → n ≤ 9 →
    (decimal code n).length = n ∧ (∀ d ∈ decimal code n, 0x30 ≤ d ∧ d ≤ 0x39) ∧
    (∀ j, j < n → (decimal code n)[j]? = some (BitVec.ofNat 8 (0x30 + code / 10 ^ (n - 1 - j) % 10))) ∧
    digitsValue 10 ((decimal code n).map fun d => d.toNat - 0x30) = code

/-- 43_hotp R150, R154: the code lies below 10^n and fits CODE, the truncated value has 31 bits and comes from four bytes
inside the digest, and exactly the lengths 1 to 9 are legal. -/
def Obligations.HotpCodesHaveTheirLength : Prop :=
  (∀ (s : List Byte) (C : DWord) (n : BitVec 4) (r : Otp), hotp s C n = .ok r →
    1 ≤ n ∧ n ≤ 9 ∧ r.code = codeOf s C n.toNat ∧ r.code < 10 ^ n.toNat ∧ r.code < 2 ^ 32 ∧
      r.digits = decimal r.code n.toNat) ∧
  (∀ (s : List Byte) (C : DWord) (n : BitVec 4), n < 1 ∨ 9 < n →
    hotp s C n = .error ⟨.codeLen, n.setWidth 32⟩) ∧
  (∀ h : List Byte, h.length = 20 → ∃ o, o = (h.getD 19 0 &&& 0x0F).toNat ∧ o + 3 ≤ 18 ∧ truncate h < 2 ^ 31 ∧
    truncate h = (h.getD o 0).toNat % 128 * 2 ^ 24 + (h.getD (o + 1) 0).toNat * 2 ^ 16
      + (h.getD (o + 2) 0).toNat * 2 ^ 8 + (h.getD (o + 3) 0).toNat)

/-- 44_totp R161: the counter is the floor of (T − T0) / X, which fits 64 bits; X = 0 is error 1, and then T < T0 is
error 2. -/
def Obligations.TotpCounterIsTheFloor : Prop :=
  ∀ (T T0 : DWord) (X : Word),
    (X = 0 → totpCounter T T0 X = .error ⟨.timeRange, 1⟩) ∧
    (X ≠ 0 → T < T0 → totpCounter T T0 X = .error ⟨.timeRange, 2⟩) ∧
    (X ≠ 0 → T0 ≤ T → ∃ c : DWord, totpCounter T T0 X = .ok c ∧
      X.toNat * c.toNat ≤ T.toNat - T0.toNat ∧ T.toNat - T0.toNat < X.toNat * (c.toNat + 1))

/-- 44_totp R165: timestamps one step apart give counters that differ by exactly 1. -/
def Obligations.AdjacentWindowsDifferByOne : Prop :=
  ∀ (T T0 c : DWord) (X : Word), T.toNat + X.toNat < 2 ^ 64 → totpCounter T T0 X = .ok c →
    ∃ c' : DWord, totpCounter (T + X.setWidth 64) T0 X = .ok c' ∧ c'.toNat = c.toNat + 1

/-- 44_totp R167: truncating the wall clock to whole seconds never changes the counter. -/
def Obligations.WholeSecondsLoseNothing : Prop :=
  ∀ (t : ℝ) (T0 : DWord) (X : Word), (T0.toNat : ℝ) ≤ t → t < 2 ^ 64 → X ≠ 0 →
    ∃ c : DWord, totpCounter (BitVec.ofNat 64 ⌊t⌋₊) T0 X = .ok c ∧
      c.toNat = ⌊(t - (T0.toNat : ℝ)) / (X.toNat : ℝ)⌋₊

/-- 44_totp R166: the default secret, with the first "QS" of the first segment replaced by the second segment. -/
def Obligations.DefaultSecretReplacesTheFirstQS : Prop :=
  ∀ (p : Params) (S seg1 seg2 : List Byte), S = p.frag1 ++ p.frag2 → 18 ≤ S.length → seg1 = S.take 11 →
    seg2 = (S.drop 11).take 7 →
    (∀ q, q ≤ 9 → seg1[q]? = some 0x51 → seg1[q + 1]? = some 0x53 →
      (∀ j, j < q → ¬ (seg1[j]? = some 0x51 ∧ seg1[j + 1]? = some 0x53)) →
      p.defaultSecret = seg1.take q ++ seg2 ++ seg1.drop (q + 2) ∧ p.defaultSecret.length = 16) ∧
    ((∀ j, j ≤ 9 → ¬ (seg1[j]? = some 0x51 ∧ seg1[j + 1]? = some 0x53)) →
      p.defaultSecret = seg1 ∧ p.defaultSecret.length = 11)

/-! ## Registers -/

/-- 10_state R23, R24, R41: the identification, capability and size registers, at all times. -/
def Obligations.ConstantRegistersReadTheirConstants : Prop :=
  ∀ s : State,
    s.readReg .id = 0x4F545031 ∧
    s.readReg .caps = 0x00091440 ∧
    (s.readReg .caps).extractLsb' 0 8 = 64 ∧ (s.readReg .caps).extractLsb' 8 8 = 20 ∧
    (s.readReg .caps).extractLsb' 16 4 = 9 ∧ (s.readReg .caps).extractLsb' 20 12 = 0 ∧
    s.readReg .msgSize = BitVec.ofNat 32 s.params.msgBytes ∧
    s.readReg .keySize = BitVec.ofNat 32 s.params.keyBytes ∧
    s.readReg .outSize = BitVec.ofNat 32 s.params.outBytes

/-- 10_state R20, 20_memory R63: the offset column of the register table. An aligned 4-byte access there reads or writes
the register of its row, and the answer is OKAY; every register has a row. -/
def Obligations.RegistersAreAtTheirOffsets : Prop :=
  ∃ table : List (BitVec 18 × Reg),
    table =
      [(0x000, .id), (0x004, .caps), (0x008, .ctrl), (0x00C, .status), (0x010, .cmd), (0x014, .errInfo),
        (0x018, .msgLen), (0x01C, .keyLen), (0x020, .cfg), (0x024, .timeStep), (0x028, .epochLo), (0x02C, .epochHi),
        (0x030, .timeLo), (0x034, .timeHi), (0x038, .cntLo), (0x03C, .cntHi), (0x040, .outLen), (0x044, .code),
        (0x048, .lcntLo), (0x04C, .lcntHi), (0x050, .msgSize), (0x054, .keySize), (0x058, .outSize)] ∧
    (∀ r : Reg, ∃ a, (a, r) ∈ table) ∧
    ∀ e ∈ table, ∀ (s : State) (v : Word),
      (s.bus ⟨.read, e.1, 4⟩).answer = some (.word (s.readReg e.2)) ∧
      s.bus ⟨.write v, e.1, 4⟩ = { s.writeReg e.2 v with answer := some .okay }

/-- 10_state R26, R44, 20_memory R71: the fields of STATUS; while BUSY all but ERR and LOG read their values. -/
def Obligations.StatusReadsItsFields : Prop :=
  ∀ s : State,
    (s.readReg .status).getLsbD 0 = s.busy ∧ (s.readReg .status).getLsbD 1 = s.done ∧
    (s.readReg .status).getLsbD 2 = s.ovr ∧ (s.readReg .status).getLsbD 3 = (s.ie && s.done) ∧
    (s.readReg .status).extractLsb' 12 20 = 0 ∧
    (s.busy = false → (s.readReg .status).extractLsb' 4 4 = s.err ∧ (s.readReg .status).extractLsb' 8 4 = s.log)

/-- 10_state R20, R25, R28, R30 to R36: what a host writes to an input register while IDLE is what it reads back, and
nothing else changes; reserved bits of CTRL and CFG read 0, CMD reads 0, and a write to a read-only register (the access
letters of R20) changes nothing. -/
def Obligations.InputRegistersReadBack : Prop :=
  ∀ (s : State) (v : Word), s.busy = false →
    (∀ r ∈ [Reg.msgLen, .keyLen, .timeStep, .epochLo, .epochHi, .timeLo, .timeHi, .cntLo, .cntHi],
      (s.writeReg r v).readReg r = v) ∧
    s.writeReg .msgLen v = { s with msgLen := v } ∧ s.writeReg .keyLen v = { s with keyLen := v } ∧
    s.writeReg .timeStep v = { s with timeStep := v } ∧
    s.writeReg .epochLo v = { s with epochLo := v } ∧ s.writeReg .epochHi v = { s with epochHi := v } ∧
    s.writeReg .timeLo v = { s with timeLo := v } ∧ s.writeReg .timeHi v = { s with timeHi := v } ∧
    s.writeReg .cntLo v = { s with cntLo := v } ∧ s.writeReg .cntHi v = { s with cntHi := v } ∧
    (s.writeReg .cfg v).readReg .cfg = v &&& 0x0000000F ∧
    s.writeReg .cfg v = { s with codeLen := v.extractLsb' 0 4 } ∧
    (v.getLsbD 1 = false → (s.writeReg .ctrl v).readReg .ctrl = v &&& 0x00000001 ∧
      s.writeReg .ctrl v = { s with ie := v.getLsbD 0 }) ∧
    (s.writeReg .cmd v).readReg .cmd = 0 ∧
    (∀ r ∈ Reg.readOnly, s.writeReg r v = s)

/-- 10_state R27: writing 1 clears DONE and OVR, every other bit is ignored, BUSY or not; while BUSY, DONE is already
0 in every state of a run, so clearing it has no effect. -/
def Obligations.StatusIsWriteOneToClear : Prop :=
  ∀ (s : State) (v : Word),
    s.bus ⟨.write v, 0x00C, 4⟩ =
      { s with
        done := s.done && !(v.getLsbD 1)
        ovr := s.ovr && !(v.getLsbD 2)
        answer := some .okay } ∧
    (s.Inv → s.busy = true → s.done = false ∧ (s.bus ⟨.write v, 0x00C, 4⟩).done = s.done)

/-- 20_memory R69: a host sees acceptance set BUSY and clear DONE, and change nothing else, whatever the word; the word
written is the one completed, ILLEGAL_CMD and all. (The time it samples shows in GetcodeUsesTheTimeOfItsAcceptance.) -/
def Obligations.AcceptanceLatchesAnyWord : Prop :=
  ∀ (s : State) (v : Word), s.busy = false → ∃ t, s.issue v = t ∧
    t.busy = true ∧ t.done = false ∧ t.log = s.log ∧ SameInputs { s with answer := some .okay } t ∧
    SameResults s t ∧ (∀ a, t.byteAt a = s.byteAt a) ∧
    (∀ i, decode v = .ok i → t.complete = exec i t) ∧
    (∀ c, decode v = .error c → ∃ u, t.complete = .next u ∧ Failed t u .illegalCmd v)

/-- 20_memory R70: while BUSY a legal write to CMD, an input register, MSG or KEY is dropped and sets OVR; writes to
CTRL and STATUS act as ever; writes to read-only registers and OUT are ignored and set nothing. -/
def Obligations.BusyWritesAreDropped : Prop :=
  ∀ (s : State) (x : Access) (v : Word), s.busy = true → x.dir = .write v →
    (∀ r, x.target s.params = .reg r → r ∈ Reg.frozen → s.bus x = { s with ovr := true, answer := some .okay }) ∧
    (∀ b i, x.target s.params = .byte b i ∨ x.target s.params = .word b i → b ≠ .out →
      s.bus x = { s with ovr := true, answer := some .okay }) ∧
    (∀ i, x.target s.params = .byte .out i ∨ x.target s.params = .word .out i →
      s.bus x = { s with answer := some .okay }) ∧
    (∀ r, x.target s.params = .reg r → r ∈ Reg.readOnly → s.bus x = { s with answer := some .okay }) ∧
    (x.target s.params = .reg .ctrl → v.getLsbD 1 = false →
      s.bus x = { s with ie := v.getLsbD 0, answer := some .okay }) ∧
    (x.target s.params = .reg .status →
      s.bus x = { s with ovr := s.ovr && !(v.getLsbD 2), done := s.done && !(v.getLsbD 1), answer := some .okay })

/-- 20_memory R70, 10_state R46: while a command runs, no step changes what it reads, and so none changes the results it
will have. -/
def Obligations.OperandsCannotChangeWhileBusy : Prop :=
  ∀ s t : State, s.busy = true → step s = .next t → t.busy = true →
    AgreeOnOperands s t ∧ ∃ r r', s.complete = .next r ∧ t.complete = .next r' ∧ SameResults r r'

/-! ## Accesses -/

/-- 20_memory R62 to R64, R66, R67; 10_state R42: an access answers ERROR exactly when it is not legal, and then changes
nothing. -/
def Obligations.IllegalAccessesChangeNothing : Prop :=
  ∀ (s : State) (x : Access), s.params.wf = true →
    (¬ x.Legal s.params → s.bus x = { s with answer := some .error }) ∧
    (x.Legal s.params → ∃ d, (s.bus x).answer = some d ∧ d ≠ .error)

/-- 20_memory R65, R68, R74: while IDLE a 4-byte write to MSG or KEY stores its bytes big-endian and a 1-byte write its one,
nothing else changes, and both widths read them back. -/
def Obligations.BufferWritesAreBigEndian : Prop :=
  ∀ (s : State) (b : Buf) (i : Nat) (v : Word), s.params.wf = true → s.busy = false → b ≠ .out →
    (i % 4 = 0 → i + 4 ≤ b.size s.params → ∃ t, s.bus ⟨.write v, BitVec.ofNat 18 (b.base + i), 4⟩ = t ∧
      t = { s with mem := t.mem, answer := some .okay } ∧
      t.byteAt (b.base + i) = v.extractLsb' 24 8 ∧ t.byteAt (b.base + i + 1) = v.extractLsb' 16 8 ∧
      t.byteAt (b.base + i + 2) = v.extractLsb' 8 8 ∧ t.byteAt (b.base + i + 3) = v.extractLsb' 0 8 ∧
      (∀ a, a < b.base + i ∨ b.base + i + 4 ≤ a → t.byteAt a = s.byteAt a) ∧
      (t.bus ⟨.read, BitVec.ofNat 18 (b.base + i), 4⟩).answer = some (.word v) ∧
      (t.bus ⟨.read, BitVec.ofNat 18 (b.base + i), 1⟩).answer = some (.byte (v.extractLsb' 24 8))) ∧
    (i < b.size s.params → ∃ t, s.bus ⟨.write v, BitVec.ofNat 18 (b.base + i), 1⟩ = t ∧
      t = { s with mem := t.mem, answer := some .okay } ∧
      t.byteAt (b.base + i) = v.extractLsb' 0 8 ∧ (∀ a, a ≠ b.base + i → t.byteAt a = s.byteAt a) ∧
      (t.bus ⟨.read, BitVec.ofNat 18 (b.base + i), 1⟩).answer = some (.byte (v.extractLsb' 0 8)))

/-- 20_memory R65, 40_sha1 R115: after SHA1, 4-byte reads of OUT at 0, 4, 8, 12 and 16 return H0 to H4. -/
def Obligations.OutReadsAsTheDigestWords : Prop :=
  ∀ s t : State, s.params.wf = true → s.msgLen.toNat ≤ s.params.msgBytes → exec .sha1 s = .next t →
    ∃ h, h = (runSha1 (s.memRead .msg 0 s.msgLen.toNat)).hash ∧
      (t.bus ⟨.read, 0x30000, 4⟩).answer = some (.word h.a) ∧
      (t.bus ⟨.read, 0x30004, 4⟩).answer = some (.word h.b) ∧
      (t.bus ⟨.read, 0x30008, 4⟩).answer = some (.word h.c) ∧
      (t.bus ⟨.read, 0x3000C, 4⟩).answer = some (.word h.d) ∧
      (t.bus ⟨.read, 0x30010, 4⟩).answer = some (.word h.e)

/-- 20_memory R72: no read has a side effect, and while IDLE a read repeated gives the same answer. (The draw counter is
the model's own, log 4.) -/
def Obligations.ReadsHaveNoSideEffect : Prop :=
  ∀ (s : State) (x : Access), x.dir = .read →
    (∃ d n, s.bus x = { s with answer := some d, draws := n }) ∧
    (s.busy = false → (s.bus x).bus x = s.bus x ∧ (s.bus x).draws = s.draws)

/-- 20_memory R71: while BUSY the constants, CTRL, CMD and the input registers read the values held, STATUS its BUSY, DONE,
OVR and IRQ bits, and MSG and KEY bytes their stored values, in accesses of either size. -/
def Obligations.BusyReadsOfInputsAreExact : Prop :=
  ∀ s : State, s.busy = true →
    s.readReg .id = 0x4F545031 ∧ s.readReg .caps = 0x00091440 ∧
    s.readReg .ctrl = (if s.ie then 0x00000001 else 0x00000000) ∧ s.readReg .cmd = 0 ∧
    s.readReg .msgLen = s.msgLen ∧ s.readReg .keyLen = s.keyLen ∧ s.readReg .cfg = BitVec.ofNat 32 s.codeLen.toNat ∧
    s.readReg .timeStep = s.timeStep ∧ s.readReg .epochLo = s.epochLo ∧ s.readReg .epochHi = s.epochHi ∧
    s.readReg .timeLo = s.timeLo ∧ s.readReg .timeHi = s.timeHi ∧
    s.readReg .cntLo = s.cntLo ∧ s.readReg .cntHi = s.cntHi ∧
    s.readReg .msgSize = BitVec.ofNat 32 s.params.msgBytes ∧ s.readReg .keySize = BitVec.ofNat 32 s.params.keyBytes ∧
    s.readReg .outSize = BitVec.ofNat 32 s.params.outBytes ∧
    (s.readReg .status).getLsbD 0 = true ∧ (s.readReg .status).getLsbD 1 = s.done ∧
    (s.readReg .status).getLsbD 2 = s.ovr ∧ (s.readReg .status).getLsbD 3 = (s.ie && s.done) ∧
    (s.params.wf = true → ∀ (b : Buf) (i : Nat), b ≠ .out →
      (i < b.size s.params →
        (s.bus ⟨.read, BitVec.ofNat 18 (b.base + i), 1⟩).answer = some (.byte (s.byteAt (b.base + i)))) ∧
      (i % 4 = 0 → i + 4 ≤ b.size s.params →
        (s.bus ⟨.read, BitVec.ofNat 18 (b.base + i), 4⟩).answer =
          some (.word (be32 (s.byteAt (b.base + i)) (s.byteAt (b.base + i + 1)) (s.byteAt (b.base + i + 2))
            (s.byteAt (b.base + i + 3))))))

/-- 30_encoding R98, 20_memory R65: the writes of LOAD put the bytes in the buffer and their number in its length
register, and SET64 sets the two halves of a register pair; nothing else changes, in either. -/
def Obligations.LoadAndSet64DoWhatTheySay : Prop :=
  (∀ (s : State) (bytes : List Byte), s.params.wf = true → s.busy = false → bytes.length ≤ s.params.msgBytes →
    ∃ t, (loadOp .msg bytes).foldl State.bus s = t ∧ t.memRead .msg 0 bytes.length = bytes ∧
      t = { s with mem := t.mem, msgLen := BitVec.ofNat 32 bytes.length, answer := some .okay } ∧
      ∀ a, a < Buf.msg.base ∨ Buf.msg.base + bytes.length ≤ a → t.byteAt a = s.byteAt a) ∧
  (∀ (s : State) (bytes : List Byte), s.params.wf = true → s.busy = false → bytes.length ≤ s.params.keyBytes →
    ∃ t, (loadOp .key bytes).foldl State.bus s = t ∧ t.memRead .key 0 bytes.length = bytes ∧
      t = { s with mem := t.mem, keyLen := BitVec.ofNat 32 bytes.length, answer := some .okay } ∧
      ∀ a, a < Buf.key.base ∨ Buf.key.base + bytes.length ≤ a → t.byteAt a = s.byteAt a) ∧
  (∀ (s : State) (v : DWord), s.busy = false →
    ∃ lo hi, lo = v.extractLsb' 0 32 ∧ hi = v.extractLsb' 32 32 ∧
      (set64Op 0x028 v).foldl State.bus s = { s with epochLo := lo, epochHi := hi, answer := some .okay } ∧
      (set64Op 0x030 v).foldl State.bus s = { s with timeLo := lo, timeHi := hi, answer := some .okay } ∧
      (set64Op 0x038 v).foldl State.bus s = { s with cntLo := lo, cntHi := hi, answer := some .okay } ∧
      ((set64Op 0x028 v).foldl State.bus s).epoch = v ∧ ((set64Op 0x030 v).foldl State.bus s).time = v ∧
      ((set64Op 0x038 v).foldl State.bus s).counter = v)

/-! ## Resets, the interrupt, and the whole machine -/

/-- 70_reset R212: the soft reset, while IDLE or BUSY. Every register reads its reset value, no command is pending,
MSG and KEY stand, and OUT has no known byte. -/
def Obligations.SoftResetKeepsOnlyMsgAndKey : Prop :=
  ∀ (s : State) (v : Word), v.getLsbD 1 = true → ∃ t, s.bus ⟨.write v, 0x008, 4⟩ = t ∧
    (∀ r, t.readReg r = r.resetValue s.params) ∧ t.busy = false ∧ t.irq = false ∧
    (∀ a, a < Buf.out.base → t.byteAt a = s.byteAt a) ∧ (∀ a, Buf.out.base ≤ a → t.mem.find a = none) ∧
    t.params = s.params ∧ t.nowIn = s.nowIn ∧ t.inputs = s.inputs ∧ t.answer = some .okay

/-- 70_reset R211, 10_state R20, R45: after the power-on reset every register reads its reset value, no command is
pending, IRQ is 0 and no buffer byte is known. That the parameters and the level on NOW survive it is the model's choice
(log 18), and the sizes that State.reset reads are the model's choice of log 1; no rule says either. -/
def Obligations.PowerOnResetsEverything : Prop :=
  (∀ s : State, s.params.wf = true → s.inputs.head? = some .powerOn → ∃ t, step s = .next t ∧
    (∀ r, t.readReg r = r.resetValue s.params) ∧ t.busy = false ∧ t.irq = false ∧ t.mem = [] ∧
    t.params = s.params ∧ t.nowIn = s.nowIn) ∧
  (∀ (p : Params) (level : DWord) (l : List Input) (r : Reg), (State.boot p level l).readReg r = r.resetValue p) ∧
  (∀ r, State.reset.readReg r = r.resetValue Params.suggested)

/-- 60_exceptions R190, 10_state R44: IRQ is raised by every completion when IE = 1, or by setting IE while DONE = 1, and
by nothing else, and is cleared by CLRDONE, by acceptance and by a reset. -/
def Obligations.IrqFollowsDoneAndEnable : Prop :=
  (∀ s t : State, step s = .next t → t.irq = true → s.irq = false →
    (s.busy = true ∧ s.EngineNext ∧ t.busy = false) ∨ (∃ v, s.NextWrites .ctrl v ∧ v.getLsbD 0 = true ∧ s.done = true)) ∧
  (∀ (i : Instr) (s t : State), exec i s = .next t → t.irq = s.ie) ∧
  (∀ (s : State) (v : Word), (s.ackStatus 0x00000002).irq = false ∧ (s.accept v).irq = false ∧
    s.softReset.irq = false ∧ s.powerOn.irq = false)

/-- 10_state R43: the writers of BUSY, DONE, OVR, ERR and LOG are the tabled ones, over every step of the machine. -/
def Obligations.FlagsChangeOnlyAsTabled : Prop :=
  ∀ s t : State, step s = .next t →
    (s.busy = false → t.busy = true → 
      ∃ v, s.NextWrites .cmd v ∧ t.done = false ∧ ∀ i, decode v = .ok i → t.complete = exec i t) ∧
    (s.busy = true → t.busy = false → (s.EngineNext ∧ t.done = true) ∨ s.NextResets) ∧
    (s.done = false → t.done = true → s.busy = true ∧ s.EngineNext) ∧
    (s.done = true → t.done = false →
      (∃ v, s.NextWrites .cmd v) ∨ (∃ v, s.NextWrites .status v ∧ v.getLsbD 1 = true) ∨ s.NextResets ) ∧
    (s.ovr = false → t.ovr = true →
      s.busy = true ∧ ∃ x v, s.inputs.head? = some (.access x) ∧ x.dir = .write v) ∧
    (s.ovr = true → t.ovr = false → (∃ v, s.NextWrites .status v ∧ v.getLsbD 2 = true) ∨ s.NextResets) ∧
    (t.err ≠ s.err → (s.busy = true ∧ s.EngineNext) ∨ s.NextResets) ∧
    (t.log ≠ s.log → (s.busy = true ∧ s.EngineNext ∧ ∃ d, step s = exec (.getcode d) s.pop) ∨ s.NextResets)

/-- 20_memory R68, R82; 60_exceptions R187: results stand until a completion or a reset, and a MSG or KEY byte until a
host write to it while IDLE or the power-on reset. -/
def Obligations.StoredBytesAndResultsStand : Prop :=
  ∀ s t : State, step s = .next t →
    (¬ (s.busy = true ∧ s.EngineNext) → ¬ s.NextResets →
      SameResults s t ∧ ∀ a, Buf.out.base ≤ a → t.byteAt a = s.byteAt a) ∧
    (∀ a, a < Buf.out.base → t.byteAt a ≠ s.byteAt a →
      s.inputs.head? = some .powerOn ∨
      (s.busy = false ∧ ∃ x v b i, s.inputs.head? = some (.access x) ∧ x.dir = .write v ∧ b ≠ .out ∧
        ((x.target s.params = .byte b i ∧ a = b.base + i) ∨
         (x.target s.params = .word b i ∧ b.base + i ≤ a ∧ a < b.base + i + 4))))

/-- 20_memory R69, R70, R75; 95_test_vectors V-SEQ-3: a write to MSG_LEN that races a command either is dropped and
sets OVR, or lands after the completion; the command's results are the same. -/
def Obligations.RacingWriteHasTwoOutcomes : Prop :=
  ∀ (s : State) (w n : Word), s.params.wf = true → s.busy = false → s.ovr = false →
    ∃ t u,
      steps 3 { s with inputs := [.access (wr32 0x010 w), .access (wr32 0x018 n), .engine] } = some t ∧
      steps 3 { s with inputs := [.access (wr32 0x010 w), .engine, .access (wr32 0x018 n)] } = some u ∧
      t.msgLen = s.msgLen ∧ t.ovr = true ∧ u.msgLen = n ∧ u.ovr = false ∧ SameResults t u

/-! ## GETCODE's time, the polling loop, and the results a host reads -/

/-- 20_memory R69, 44_totp R163, 60_exceptions R197: GETCODE uses the level on NOW when its word was accepted, for every
level, however NOW moves while the command runs; whatever else happens meanwhile, the code is that of the window of that
time, or the error that time gives. -/
def Obligations.GetcodeUsesTheTimeOfItsAcceptance : Prop :=
  ∀ (s t : State) (dflt : Bool) (text k : List Byte) (src : BitVec 2) (c : DWord), s.params.wf = true → s.busy = false →
    s.TextIs dflt text src → base32Decode text src = .ok k → s.timeStep ≠ 0 →
    WhileBusy (s.issue (encode (.getcode dflt))) t → t.EngineNext →
    (s.nowIn < s.epoch → ∃ u, step t = .next u ∧ Caught t.pop u .timeRange 2) ∧
    (1 ≤ s.codeLen → s.codeLen ≤ 9 → s.epoch ≤ s.nowIn →
      c = BitVec.ofNat 64 ((s.nowIn.toNat - s.epoch.toNat) / s.timeStep.toNat) →
      ∃ u, step t = .next u ∧ SameInputs t.pop u ∧
        Completed u 0 0 0 s.codeLen.toNat (BitVec.ofNat 32 (codeOf k c s.codeLen.toNat)) c ∧
        u.OutHolds (decimal (codeOf k c s.codeLen.toNat) s.codeLen.toNat))

/-- 30_encoding R98: WAIT reads STATUS once a turn, stays while the BUSY it reads is 1 and ends when it reads 0. So it makes
any number of reads before the engine's turn, goes on after it, and leaves the results as the completion left them. -/
def Obligations.WaitPollsUntilBusyReadsZero : Prop :=
  (∀ (s : State) (p : List HostOp),
    hostTurn s (.wait :: p) = (if s.busy = true then .wait :: p else p, s.bus ⟨.read, 0x00C, 4⟩)) ∧
  (∀ (s : State) (p : List HostOp) (n : Nat), s.params.wf = true → s.busy = true →
    ∃ t u, runProgram (List.replicate n .host) (.wait :: p) s = some (.wait :: p, t) ∧ t.busy = true ∧
      SameInputs s { t with answer := s.answer } ∧
      runProgram (List.replicate n .host ++ [.event .engine, .host]) (.wait :: p) s = some (p, u) ∧
      u.busy = false ∧ u.done = true ∧ u.answer = some (.word (u.readReg .status)) ∧
      ∃ r r', s.complete = .next r ∧ t.complete = .next r' ∧ SameResults r r' ∧ SameResults r u)

/-- 10_state R29, R37, R38, R39, 20_memory R76: while IDLE a host reads in ERRINFO, OUT_LEN, CODE and the LCNT pair the
results that the last completion or reset left there. -/
def Obligations.ResultRegistersReadTheResults : Prop :=
  ∀ s : State, s.busy = false →
    s.readReg .errInfo = s.errInfo ∧ s.readReg .outLen = s.outLen ∧ s.readReg .code = s.code ∧
    s.readReg .lcntLo = s.lcntLo ∧ s.readReg .lcntHi = s.lcntHi ∧
    s.readReg .lcntHi ++ s.readReg .lcntLo = s.lcnt
end

