-- ==== Sys2Proof/Laws/State.lean ====
section
/-! SUPPORT. Every field of the state after every named update, so that no proof unfolds a record update. -/

namespace Sys2Proof.Machine

variable (s : State)

/-! ## `finish`: the completion record -/

@[simp] theorem State.finish_params (e : BitVec 4) (info : Word) (out : List Byte) (code : Word) (lcnt : DWord) : (s.finish e info out code lcnt).params = s.params := rfl
@[simp] theorem State.finish_ie (e : BitVec 4) (info : Word) (out : List Byte) (code : Word) (lcnt : DWord) : (s.finish e info out code lcnt).ie = s.ie := rfl
@[simp] theorem State.finish_busy (e : BitVec 4) (info : Word) (out : List Byte) (code : Word) (lcnt : DWord) : (s.finish e info out code lcnt).busy = false := rfl
@[simp] theorem State.finish_done (e : BitVec 4) (info : Word) (out : List Byte) (code : Word) (lcnt : DWord) : (s.finish e info out code lcnt).done = true := rfl
@[simp] theorem State.finish_ovr (e : BitVec 4) (info : Word) (out : List Byte) (code : Word) (lcnt : DWord) : (s.finish e info out code lcnt).ovr = s.ovr := rfl
@[simp] theorem State.finish_err (e : BitVec 4) (info : Word) (out : List Byte) (code : Word) (lcnt : DWord) : (s.finish e info out code lcnt).err = e := rfl
@[simp] theorem State.finish_log (e : BitVec 4) (info : Word) (out : List Byte) (code : Word) (lcnt : DWord) : (s.finish e info out code lcnt).log = s.log := rfl
@[simp] theorem State.finish_errInfo (e : BitVec 4) (info : Word) (out : List Byte) (code : Word) (lcnt : DWord) : (s.finish e info out code lcnt).errInfo = info := rfl
@[simp] theorem State.finish_msgLen (e : BitVec 4) (info : Word) (out : List Byte) (code : Word) (lcnt : DWord) : (s.finish e info out code lcnt).msgLen = s.msgLen := rfl
@[simp] theorem State.finish_keyLen (e : BitVec 4) (info : Word) (out : List Byte) (code : Word) (lcnt : DWord) : (s.finish e info out code lcnt).keyLen = s.keyLen := rfl
@[simp] theorem State.finish_codeLen (e : BitVec 4) (info : Word) (out : List Byte) (code : Word) (lcnt : DWord) : (s.finish e info out code lcnt).codeLen = s.codeLen := rfl
@[simp] theorem State.finish_timeStep (e : BitVec 4) (info : Word) (out : List Byte) (code : Word) (lcnt : DWord) : (s.finish e info out code lcnt).timeStep = s.timeStep := rfl
@[simp] theorem State.finish_epochLo (e : BitVec 4) (info : Word) (out : List Byte) (code : Word) (lcnt : DWord) : (s.finish e info out code lcnt).epochLo = s.epochLo := rfl
@[simp] theorem State.finish_epochHi (e : BitVec 4) (info : Word) (out : List Byte) (code : Word) (lcnt : DWord) : (s.finish e info out code lcnt).epochHi = s.epochHi := rfl
@[simp] theorem State.finish_timeLo (e : BitVec 4) (info : Word) (out : List Byte) (code : Word) (lcnt : DWord) : (s.finish e info out code lcnt).timeLo = s.timeLo := rfl
@[simp] theorem State.finish_timeHi (e : BitVec 4) (info : Word) (out : List Byte) (code : Word) (lcnt : DWord) : (s.finish e info out code lcnt).timeHi = s.timeHi := rfl
@[simp] theorem State.finish_cntLo (e : BitVec 4) (info : Word) (out : List Byte) (code : Word) (lcnt : DWord) : (s.finish e info out code lcnt).cntLo = s.cntLo := rfl
@[simp] theorem State.finish_cntHi (e : BitVec 4) (info : Word) (out : List Byte) (code : Word) (lcnt : DWord) : (s.finish e info out code lcnt).cntHi = s.cntHi := rfl
@[simp] theorem State.finish_outLen (e : BitVec 4) (info : Word) (out : List Byte) (code : Word) (lcnt : DWord) : (s.finish e info out code lcnt).outLen = BitVec.ofNat 32 out.length := rfl
@[simp] theorem State.finish_code (e : BitVec 4) (info : Word) (out : List Byte) (code : Word) (lcnt : DWord) : (s.finish e info out code lcnt).code = code := rfl
@[simp] theorem State.finish_lcntLo (e : BitVec 4) (info : Word) (out : List Byte) (code : Word) (lcnt : DWord) : (s.finish e info out code lcnt).lcntLo = lcnt.extractLsb' 0 32 := rfl
@[simp] theorem State.finish_lcntHi (e : BitVec 4) (info : Word) (out : List Byte) (code : Word) (lcnt : DWord) : (s.finish e info out code lcnt).lcntHi = lcnt.extractLsb' 32 32 := rfl
@[simp] theorem State.finish_mem (e : BitVec 4) (info : Word) (out : List Byte) (code : Word) (lcnt : DWord) : (s.finish e info out code lcnt).mem = (s.mem.below Buf.out.base).storeBytes Buf.out.base out := rfl
@[simp] theorem State.finish_cmd (e : BitVec 4) (info : Word) (out : List Byte) (code : Word) (lcnt : DWord) : (s.finish e info out code lcnt).cmd = s.cmd := rfl
@[simp] theorem State.finish_now (e : BitVec 4) (info : Word) (out : List Byte) (code : Word) (lcnt : DWord) : (s.finish e info out code lcnt).now = s.now := rfl
@[simp] theorem State.finish_work (e : BitVec 4) (info : Word) (out : List Byte) (code : Word) (lcnt : DWord) : (s.finish e info out code lcnt).work = s.work := rfl
@[simp] theorem State.finish_nowIn (e : BitVec 4) (info : Word) (out : List Byte) (code : Word) (lcnt : DWord) : (s.finish e info out code lcnt).nowIn = s.nowIn := rfl
@[simp] theorem State.finish_inputs (e : BitVec 4) (info : Word) (out : List Byte) (code : Word) (lcnt : DWord) : (s.finish e info out code lcnt).inputs = s.inputs := rfl
@[simp] theorem State.finish_answer (e : BitVec 4) (info : Word) (out : List Byte) (code : Word) (lcnt : DWord) : (s.finish e info out code lcnt).answer = s.answer := rfl
@[simp] theorem State.finish_draws (e : BitVec 4) (info : Word) (out : List Byte) (code : Word) (lcnt : DWord) : (s.finish e info out code lcnt).draws = s.draws + 1 := rfl
@[simp] theorem State.finish_ramDraw (e : BitVec 4) (info : Word) (out : List Byte) (code : Word) (lcnt : DWord) : (s.finish e info out code lcnt).ramDraw = s.ramDraw := rfl
@[simp] theorem State.finish_outDraw (e : BitVec 4) (info : Word) (out : List Byte) (code : Word) (lcnt : DWord) : (s.finish e info out code lcnt).outDraw = s.draws := rfl

/-! ## `accept`: acceptance -/

@[simp] theorem State.accept_params (v : Word) : (s.accept v).params = s.params := rfl
@[simp] theorem State.accept_ie (v : Word) : (s.accept v).ie = s.ie := rfl
@[simp] theorem State.accept_busy (v : Word) : (s.accept v).busy = true := rfl
@[simp] theorem State.accept_done (v : Word) : (s.accept v).done = false := rfl
@[simp] theorem State.accept_ovr (v : Word) : (s.accept v).ovr = s.ovr := rfl
@[simp] theorem State.accept_err (v : Word) : (s.accept v).err = s.err := rfl
@[simp] theorem State.accept_log (v : Word) : (s.accept v).log = s.log := rfl
@[simp] theorem State.accept_errInfo (v : Word) : (s.accept v).errInfo = s.errInfo := rfl
@[simp] theorem State.accept_msgLen (v : Word) : (s.accept v).msgLen = s.msgLen := rfl
@[simp] theorem State.accept_keyLen (v : Word) : (s.accept v).keyLen = s.keyLen := rfl
@[simp] theorem State.accept_codeLen (v : Word) : (s.accept v).codeLen = s.codeLen := rfl
@[simp] theorem State.accept_timeStep (v : Word) : (s.accept v).timeStep = s.timeStep := rfl
@[simp] theorem State.accept_epochLo (v : Word) : (s.accept v).epochLo = s.epochLo := rfl
@[simp] theorem State.accept_epochHi (v : Word) : (s.accept v).epochHi = s.epochHi := rfl
@[simp] theorem State.accept_timeLo (v : Word) : (s.accept v).timeLo = s.timeLo := rfl
@[simp] theorem State.accept_timeHi (v : Word) : (s.accept v).timeHi = s.timeHi := rfl
@[simp] theorem State.accept_cntLo (v : Word) : (s.accept v).cntLo = s.cntLo := rfl
@[simp] theorem State.accept_cntHi (v : Word) : (s.accept v).cntHi = s.cntHi := rfl
@[simp] theorem State.accept_outLen (v : Word) : (s.accept v).outLen = s.outLen := rfl
@[simp] theorem State.accept_code (v : Word) : (s.accept v).code = s.code := rfl
@[simp] theorem State.accept_lcntLo (v : Word) : (s.accept v).lcntLo = s.lcntLo := rfl
@[simp] theorem State.accept_lcntHi (v : Word) : (s.accept v).lcntHi = s.lcntHi := rfl
@[simp] theorem State.accept_mem (v : Word) : (s.accept v).mem = s.mem := rfl
@[simp] theorem State.accept_cmd (v : Word) : (s.accept v).cmd = v := rfl
@[simp] theorem State.accept_now (v : Word) : (s.accept v).now = if v.extractLsb' 0 8 = 0x06 then s.nowIn else s.now := rfl
@[simp] theorem State.accept_work (v : Word) : (s.accept v).work = s.work := rfl
@[simp] theorem State.accept_nowIn (v : Word) : (s.accept v).nowIn = s.nowIn := rfl
@[simp] theorem State.accept_inputs (v : Word) : (s.accept v).inputs = s.inputs := rfl
@[simp] theorem State.accept_answer (v : Word) : (s.accept v).answer = s.answer := rfl
@[simp] theorem State.accept_draws (v : Word) : (s.accept v).draws = s.draws := rfl
@[simp] theorem State.accept_ramDraw (v : Word) : (s.accept v).ramDraw = s.ramDraw := rfl
@[simp] theorem State.accept_outDraw (v : Word) : (s.accept v).outDraw = s.outDraw := rfl

/-! ## `ackStatus`: a write to STATUS -/

@[simp] theorem State.ackStatus_params (v : Word) : (s.ackStatus v).params = s.params := rfl
@[simp] theorem State.ackStatus_ie (v : Word) : (s.ackStatus v).ie = s.ie := rfl
@[simp] theorem State.ackStatus_busy (v : Word) : (s.ackStatus v).busy = s.busy := rfl
@[simp] theorem State.ackStatus_done (v : Word) : (s.ackStatus v).done = if v.getLsbD 1 then false else s.done := rfl
@[simp] theorem State.ackStatus_ovr (v : Word) : (s.ackStatus v).ovr = if v.getLsbD 2 then false else s.ovr := rfl
@[simp] theorem State.ackStatus_err (v : Word) : (s.ackStatus v).err = s.err := rfl
@[simp] theorem State.ackStatus_log (v : Word) : (s.ackStatus v).log = s.log := rfl
@[simp] theorem State.ackStatus_errInfo (v : Word) : (s.ackStatus v).errInfo = s.errInfo := rfl
@[simp] theorem State.ackStatus_msgLen (v : Word) : (s.ackStatus v).msgLen = s.msgLen := rfl
@[simp] theorem State.ackStatus_keyLen (v : Word) : (s.ackStatus v).keyLen = s.keyLen := rfl
@[simp] theorem State.ackStatus_codeLen (v : Word) : (s.ackStatus v).codeLen = s.codeLen := rfl
@[simp] theorem State.ackStatus_timeStep (v : Word) : (s.ackStatus v).timeStep = s.timeStep := rfl
@[simp] theorem State.ackStatus_epochLo (v : Word) : (s.ackStatus v).epochLo = s.epochLo := rfl
@[simp] theorem State.ackStatus_epochHi (v : Word) : (s.ackStatus v).epochHi = s.epochHi := rfl
@[simp] theorem State.ackStatus_timeLo (v : Word) : (s.ackStatus v).timeLo = s.timeLo := rfl
@[simp] theorem State.ackStatus_timeHi (v : Word) : (s.ackStatus v).timeHi = s.timeHi := rfl
@[simp] theorem State.ackStatus_cntLo (v : Word) : (s.ackStatus v).cntLo = s.cntLo := rfl
@[simp] theorem State.ackStatus_cntHi (v : Word) : (s.ackStatus v).cntHi = s.cntHi := rfl
@[simp] theorem State.ackStatus_outLen (v : Word) : (s.ackStatus v).outLen = s.outLen := rfl
@[simp] theorem State.ackStatus_code (v : Word) : (s.ackStatus v).code = s.code := rfl
@[simp] theorem State.ackStatus_lcntLo (v : Word) : (s.ackStatus v).lcntLo = s.lcntLo := rfl
@[simp] theorem State.ackStatus_lcntHi (v : Word) : (s.ackStatus v).lcntHi = s.lcntHi := rfl
@[simp] theorem State.ackStatus_mem (v : Word) : (s.ackStatus v).mem = s.mem := rfl
@[simp] theorem State.ackStatus_cmd (v : Word) : (s.ackStatus v).cmd = s.cmd := rfl
@[simp] theorem State.ackStatus_now (v : Word) : (s.ackStatus v).now = s.now := rfl
@[simp] theorem State.ackStatus_work (v : Word) : (s.ackStatus v).work = s.work := rfl
@[simp] theorem State.ackStatus_nowIn (v : Word) : (s.ackStatus v).nowIn = s.nowIn := rfl
@[simp] theorem State.ackStatus_inputs (v : Word) : (s.ackStatus v).inputs = s.inputs := rfl
@[simp] theorem State.ackStatus_answer (v : Word) : (s.ackStatus v).answer = s.answer := rfl
@[simp] theorem State.ackStatus_draws (v : Word) : (s.ackStatus v).draws = s.draws := rfl
@[simp] theorem State.ackStatus_ramDraw (v : Word) : (s.ackStatus v).ramDraw = s.ramDraw := rfl
@[simp] theorem State.ackStatus_outDraw (v : Word) : (s.ackStatus v).outDraw = s.outDraw := rfl

/-! ## `dropWrite`: a dropped write -/

@[simp] theorem State.dropWrite_params : s.dropWrite.params = s.params := rfl
@[simp] theorem State.dropWrite_ie : s.dropWrite.ie = s.ie := rfl
@[simp] theorem State.dropWrite_busy : s.dropWrite.busy = s.busy := rfl
@[simp] theorem State.dropWrite_done : s.dropWrite.done = s.done := rfl
@[simp] theorem State.dropWrite_ovr : s.dropWrite.ovr = true := rfl
@[simp] theorem State.dropWrite_err : s.dropWrite.err = s.err := rfl
@[simp] theorem State.dropWrite_log : s.dropWrite.log = s.log := rfl
@[simp] theorem State.dropWrite_errInfo : s.dropWrite.errInfo = s.errInfo := rfl
@[simp] theorem State.dropWrite_msgLen : s.dropWrite.msgLen = s.msgLen := rfl
@[simp] theorem State.dropWrite_keyLen : s.dropWrite.keyLen = s.keyLen := rfl
@[simp] theorem State.dropWrite_codeLen : s.dropWrite.codeLen = s.codeLen := rfl
@[simp] theorem State.dropWrite_timeStep : s.dropWrite.timeStep = s.timeStep := rfl
@[simp] theorem State.dropWrite_epochLo : s.dropWrite.epochLo = s.epochLo := rfl
@[simp] theorem State.dropWrite_epochHi : s.dropWrite.epochHi = s.epochHi := rfl
@[simp] theorem State.dropWrite_timeLo : s.dropWrite.timeLo = s.timeLo := rfl
@[simp] theorem State.dropWrite_timeHi : s.dropWrite.timeHi = s.timeHi := rfl
@[simp] theorem State.dropWrite_cntLo : s.dropWrite.cntLo = s.cntLo := rfl
@[simp] theorem State.dropWrite_cntHi : s.dropWrite.cntHi = s.cntHi := rfl
@[simp] theorem State.dropWrite_outLen : s.dropWrite.outLen = s.outLen := rfl
@[simp] theorem State.dropWrite_code : s.dropWrite.code = s.code := rfl
@[simp] theorem State.dropWrite_lcntLo : s.dropWrite.lcntLo = s.lcntLo := rfl
@[simp] theorem State.dropWrite_lcntHi : s.dropWrite.lcntHi = s.lcntHi := rfl
@[simp] theorem State.dropWrite_mem : s.dropWrite.mem = s.mem := rfl
@[simp] theorem State.dropWrite_cmd : s.dropWrite.cmd = s.cmd := rfl
@[simp] theorem State.dropWrite_now : s.dropWrite.now = s.now := rfl
@[simp] theorem State.dropWrite_work : s.dropWrite.work = s.work := rfl
@[simp] theorem State.dropWrite_nowIn : s.dropWrite.nowIn = s.nowIn := rfl
@[simp] theorem State.dropWrite_inputs : s.dropWrite.inputs = s.inputs := rfl
@[simp] theorem State.dropWrite_answer : s.dropWrite.answer = s.answer := rfl
@[simp] theorem State.dropWrite_draws : s.dropWrite.draws = s.draws := rfl
@[simp] theorem State.dropWrite_ramDraw : s.dropWrite.ramDraw = s.ramDraw := rfl
@[simp] theorem State.dropWrite_outDraw : s.dropWrite.outDraw = s.outDraw := rfl

/-! ## `answerRead`: the answer to a read -/

@[simp] theorem State.answerRead_params (d : Answer) : (s.answerRead d).params = s.params := rfl
@[simp] theorem State.answerRead_ie (d : Answer) : (s.answerRead d).ie = s.ie := rfl
@[simp] theorem State.answerRead_busy (d : Answer) : (s.answerRead d).busy = s.busy := rfl
@[simp] theorem State.answerRead_done (d : Answer) : (s.answerRead d).done = s.done := rfl
@[simp] theorem State.answerRead_ovr (d : Answer) : (s.answerRead d).ovr = s.ovr := rfl
@[simp] theorem State.answerRead_err (d : Answer) : (s.answerRead d).err = s.err := rfl
@[simp] theorem State.answerRead_log (d : Answer) : (s.answerRead d).log = s.log := rfl
@[simp] theorem State.answerRead_errInfo (d : Answer) : (s.answerRead d).errInfo = s.errInfo := rfl
@[simp] theorem State.answerRead_msgLen (d : Answer) : (s.answerRead d).msgLen = s.msgLen := rfl
@[simp] theorem State.answerRead_keyLen (d : Answer) : (s.answerRead d).keyLen = s.keyLen := rfl
@[simp] theorem State.answerRead_codeLen (d : Answer) : (s.answerRead d).codeLen = s.codeLen := rfl
@[simp] theorem State.answerRead_timeStep (d : Answer) : (s.answerRead d).timeStep = s.timeStep := rfl
@[simp] theorem State.answerRead_epochLo (d : Answer) : (s.answerRead d).epochLo = s.epochLo := rfl
@[simp] theorem State.answerRead_epochHi (d : Answer) : (s.answerRead d).epochHi = s.epochHi := rfl
@[simp] theorem State.answerRead_timeLo (d : Answer) : (s.answerRead d).timeLo = s.timeLo := rfl
@[simp] theorem State.answerRead_timeHi (d : Answer) : (s.answerRead d).timeHi = s.timeHi := rfl
@[simp] theorem State.answerRead_cntLo (d : Answer) : (s.answerRead d).cntLo = s.cntLo := rfl
@[simp] theorem State.answerRead_cntHi (d : Answer) : (s.answerRead d).cntHi = s.cntHi := rfl
@[simp] theorem State.answerRead_outLen (d : Answer) : (s.answerRead d).outLen = s.outLen := rfl
@[simp] theorem State.answerRead_code (d : Answer) : (s.answerRead d).code = s.code := rfl
@[simp] theorem State.answerRead_lcntLo (d : Answer) : (s.answerRead d).lcntLo = s.lcntLo := rfl
@[simp] theorem State.answerRead_lcntHi (d : Answer) : (s.answerRead d).lcntHi = s.lcntHi := rfl
@[simp] theorem State.answerRead_mem (d : Answer) : (s.answerRead d).mem = s.mem := rfl
@[simp] theorem State.answerRead_cmd (d : Answer) : (s.answerRead d).cmd = s.cmd := rfl
@[simp] theorem State.answerRead_now (d : Answer) : (s.answerRead d).now = s.now := rfl
@[simp] theorem State.answerRead_work (d : Answer) : (s.answerRead d).work = s.work := rfl
@[simp] theorem State.answerRead_nowIn (d : Answer) : (s.answerRead d).nowIn = s.nowIn := rfl
@[simp] theorem State.answerRead_inputs (d : Answer) : (s.answerRead d).inputs = s.inputs := rfl
@[simp] theorem State.answerRead_answer (d : Answer) : (s.answerRead d).answer = some d := rfl
@[simp] theorem State.answerRead_draws (d : Answer) : (s.answerRead d).draws = if s.busy then s.draws + 1 else s.draws := rfl
@[simp] theorem State.answerRead_ramDraw (d : Answer) : (s.answerRead d).ramDraw = s.ramDraw := rfl
@[simp] theorem State.answerRead_outDraw (d : Answer) : (s.answerRead d).outDraw = s.outDraw := rfl

/-! ## `answerOkay`: the answer to a write -/

@[simp] theorem State.answerOkay_params : s.answerOkay.params = s.params := rfl
@[simp] theorem State.answerOkay_ie : s.answerOkay.ie = s.ie := rfl
@[simp] theorem State.answerOkay_busy : s.answerOkay.busy = s.busy := rfl
@[simp] theorem State.answerOkay_done : s.answerOkay.done = s.done := rfl
@[simp] theorem State.answerOkay_ovr : s.answerOkay.ovr = s.ovr := rfl
@[simp] theorem State.answerOkay_err : s.answerOkay.err = s.err := rfl
@[simp] theorem State.answerOkay_log : s.answerOkay.log = s.log := rfl
@[simp] theorem State.answerOkay_errInfo : s.answerOkay.errInfo = s.errInfo := rfl
@[simp] theorem State.answerOkay_msgLen : s.answerOkay.msgLen = s.msgLen := rfl
@[simp] theorem State.answerOkay_keyLen : s.answerOkay.keyLen = s.keyLen := rfl
@[simp] theorem State.answerOkay_codeLen : s.answerOkay.codeLen = s.codeLen := rfl
@[simp] theorem State.answerOkay_timeStep : s.answerOkay.timeStep = s.timeStep := rfl
@[simp] theorem State.answerOkay_epochLo : s.answerOkay.epochLo = s.epochLo := rfl
@[simp] theorem State.answerOkay_epochHi : s.answerOkay.epochHi = s.epochHi := rfl
@[simp] theorem State.answerOkay_timeLo : s.answerOkay.timeLo = s.timeLo := rfl
@[simp] theorem State.answerOkay_timeHi : s.answerOkay.timeHi = s.timeHi := rfl
@[simp] theorem State.answerOkay_cntLo : s.answerOkay.cntLo = s.cntLo := rfl
@[simp] theorem State.answerOkay_cntHi : s.answerOkay.cntHi = s.cntHi := rfl
@[simp] theorem State.answerOkay_outLen : s.answerOkay.outLen = s.outLen := rfl
@[simp] theorem State.answerOkay_code : s.answerOkay.code = s.code := rfl
@[simp] theorem State.answerOkay_lcntLo : s.answerOkay.lcntLo = s.lcntLo := rfl
@[simp] theorem State.answerOkay_lcntHi : s.answerOkay.lcntHi = s.lcntHi := rfl
@[simp] theorem State.answerOkay_mem : s.answerOkay.mem = s.mem := rfl
@[simp] theorem State.answerOkay_cmd : s.answerOkay.cmd = s.cmd := rfl
@[simp] theorem State.answerOkay_now : s.answerOkay.now = s.now := rfl
@[simp] theorem State.answerOkay_work : s.answerOkay.work = s.work := rfl
@[simp] theorem State.answerOkay_nowIn : s.answerOkay.nowIn = s.nowIn := rfl
@[simp] theorem State.answerOkay_inputs : s.answerOkay.inputs = s.inputs := rfl
@[simp] theorem State.answerOkay_answer : s.answerOkay.answer = some .okay := rfl
@[simp] theorem State.answerOkay_draws : s.answerOkay.draws = s.draws := rfl
@[simp] theorem State.answerOkay_ramDraw : s.answerOkay.ramDraw = s.ramDraw := rfl
@[simp] theorem State.answerOkay_outDraw : s.answerOkay.outDraw = s.outDraw := rfl

/-! ## `softReset`: the soft reset -/

@[simp] theorem State.softReset_params : s.softReset.params = s.params := rfl
@[simp] theorem State.softReset_ie : s.softReset.ie = false := rfl
@[simp] theorem State.softReset_busy : s.softReset.busy = false := rfl
@[simp] theorem State.softReset_done : s.softReset.done = false := rfl
@[simp] theorem State.softReset_ovr : s.softReset.ovr = false := rfl
@[simp] theorem State.softReset_err : s.softReset.err = 0 := rfl
@[simp] theorem State.softReset_log : s.softReset.log = 0 := rfl
@[simp] theorem State.softReset_errInfo : s.softReset.errInfo = 0 := rfl
@[simp] theorem State.softReset_msgLen : s.softReset.msgLen = 0 := rfl
@[simp] theorem State.softReset_keyLen : s.softReset.keyLen = 0 := rfl
@[simp] theorem State.softReset_codeLen : s.softReset.codeLen = 9 := rfl
@[simp] theorem State.softReset_timeStep : s.softReset.timeStep = 0x0000001E := rfl
@[simp] theorem State.softReset_epochLo : s.softReset.epochLo = 0 := rfl
@[simp] theorem State.softReset_epochHi : s.softReset.epochHi = 0 := rfl
@[simp] theorem State.softReset_timeLo : s.softReset.timeLo = 0 := rfl
@[simp] theorem State.softReset_timeHi : s.softReset.timeHi = 0 := rfl
@[simp] theorem State.softReset_cntLo : s.softReset.cntLo = 0 := rfl
@[simp] theorem State.softReset_cntHi : s.softReset.cntHi = 0 := rfl
@[simp] theorem State.softReset_outLen : s.softReset.outLen = 0 := rfl
@[simp] theorem State.softReset_code : s.softReset.code = 0 := rfl
@[simp] theorem State.softReset_lcntLo : s.softReset.lcntLo = 0 := rfl
@[simp] theorem State.softReset_lcntHi : s.softReset.lcntHi = 0 := rfl
@[simp] theorem State.softReset_mem : s.softReset.mem = s.mem.below Buf.out.base := rfl
@[simp] theorem State.softReset_cmd : s.softReset.cmd = Config.freeWord s.draws 0 := rfl
@[simp] theorem State.softReset_now : s.softReset.now = Config.freeWord s.draws 1 ++ Config.freeWord s.draws 2 := rfl
@[simp] theorem State.softReset_work : s.softReset.work = Work.free s.draws := rfl
@[simp] theorem State.softReset_nowIn : s.softReset.nowIn = s.nowIn := rfl
@[simp] theorem State.softReset_inputs : s.softReset.inputs = s.inputs := rfl
@[simp] theorem State.softReset_answer : s.softReset.answer = s.answer := rfl
@[simp] theorem State.softReset_draws : s.softReset.draws = s.draws + 1 := rfl
@[simp] theorem State.softReset_ramDraw : s.softReset.ramDraw = s.ramDraw := rfl
@[simp] theorem State.softReset_outDraw : s.softReset.outDraw = s.draws := rfl

/-! ## `powerOn`: the power-on reset -/

@[simp] theorem State.powerOn_params : s.powerOn.params = s.params := rfl
@[simp] theorem State.powerOn_ie : s.powerOn.ie = false := rfl
@[simp] theorem State.powerOn_busy : s.powerOn.busy = false := rfl
@[simp] theorem State.powerOn_done : s.powerOn.done = false := rfl
@[simp] theorem State.powerOn_ovr : s.powerOn.ovr = false := rfl
@[simp] theorem State.powerOn_err : s.powerOn.err = 0 := rfl
@[simp] theorem State.powerOn_log : s.powerOn.log = 0 := rfl
@[simp] theorem State.powerOn_errInfo : s.powerOn.errInfo = 0 := rfl
@[simp] theorem State.powerOn_msgLen : s.powerOn.msgLen = 0 := rfl
@[simp] theorem State.powerOn_keyLen : s.powerOn.keyLen = 0 := rfl
@[simp] theorem State.powerOn_codeLen : s.powerOn.codeLen = 9 := rfl
@[simp] theorem State.powerOn_timeStep : s.powerOn.timeStep = 0x0000001E := rfl
@[simp] theorem State.powerOn_epochLo : s.powerOn.epochLo = 0 := rfl
@[simp] theorem State.powerOn_epochHi : s.powerOn.epochHi = 0 := rfl
@[simp] theorem State.powerOn_timeLo : s.powerOn.timeLo = 0 := rfl
@[simp] theorem State.powerOn_timeHi : s.powerOn.timeHi = 0 := rfl
@[simp] theorem State.powerOn_cntLo : s.powerOn.cntLo = 0 := rfl
@[simp] theorem State.powerOn_cntHi : s.powerOn.cntHi = 0 := rfl
@[simp] theorem State.powerOn_outLen : s.powerOn.outLen = 0 := rfl
@[simp] theorem State.powerOn_code : s.powerOn.code = 0 := rfl
@[simp] theorem State.powerOn_lcntLo : s.powerOn.lcntLo = 0 := rfl
@[simp] theorem State.powerOn_lcntHi : s.powerOn.lcntHi = 0 := rfl
@[simp] theorem State.powerOn_mem : s.powerOn.mem = [] := rfl
@[simp] theorem State.powerOn_cmd : s.powerOn.cmd = Config.freeWord s.draws 0 := rfl
@[simp] theorem State.powerOn_now : s.powerOn.now = Config.freeWord s.draws 1 ++ Config.freeWord s.draws 2 := rfl
@[simp] theorem State.powerOn_work : s.powerOn.work = Work.free s.draws := rfl
@[simp] theorem State.powerOn_nowIn : s.powerOn.nowIn = s.nowIn := rfl
@[simp] theorem State.powerOn_inputs : s.powerOn.inputs = s.inputs := rfl
@[simp] theorem State.powerOn_answer : s.powerOn.answer = s.answer := rfl
@[simp] theorem State.powerOn_draws : s.powerOn.draws = s.draws + 1 := rfl
@[simp] theorem State.powerOn_ramDraw : s.powerOn.ramDraw = s.draws := rfl
@[simp] theorem State.powerOn_outDraw : s.powerOn.outDraw = s.draws := rfl

end Sys2Proof.Machine
end

