-- ==== Sys2Proof/Laws/Memory.lean ====
section
/-! SUPPORT. What the memory operations do: read after write, what a write leaves alone, and that every one of them
keeps the canonical form. -/

namespace Sys2Proof.Machine

/-! ## Reading what an operation leaves -/

@[simp] theorem Memory.find_store (m : Memory) (a x : Nat) (b : Byte) :
    Memory.find (Memory.store m a b) x = if x = a then some b else Memory.find m x := by
  induction m with
  | nil => simp [Memory.store, Memory.find, eq_comm]
  | cons c m ih =>
    obtain ⟨y, d⟩ := c
    simp only [Memory.store]
    split
    · simp only [Memory.find, eq_comm (a := x) (b := a)]
    · split
      · subst_vars; simp only [Memory.find]; grind
      · simp only [Memory.find, ih]; grind

theorem Memory.find_storeBytes (bs : List Byte) (m : Memory) (a x : Nat) :
    Memory.find (Memory.storeBytes m a bs) x =
      if a ≤ x ∧ x < a + bs.length then bs[x - a]? else Memory.find m x := by
  induction bs generalizing m a with
  | nil => simp [Memory.storeBytes]
  | cons b bs ih =>
    simp only [Memory.storeBytes, ih, Memory.find_store, List.length_cons]
    rcases Nat.lt_trichotomy x a with h | rfl | h
    · simp [show ¬ (a + 1 ≤ x) by omega, show ¬ (a ≤ x) by omega, show x ≠ a by omega]
    · simp
    · have e : x - a = (x - (a + 1)) + 1 := by omega
      simp [show a + 1 ≤ x from h, show a ≤ x by omega, show x ≠ a by omega, e, Nat.add_assoc, Nat.add_comm 1]

@[simp] theorem Memory.find_nil (x : Nat) : Memory.find [] x = none := rfl

theorem Memory.find_below (m : Memory) (a x : Nat) :
    Memory.find (Memory.below m a) x = if x < a then Memory.find m x else none := by
  induction m with
  | nil => simp [Memory.below, Memory.find]
  | cons c m ih =>
    obtain ⟨y, d⟩ := c
    simp only [Memory.below, List.filter_cons] at ih ⊢
    by_cases h : y < a <;> simp only [h, decide_true, decide_false, if_true, Memory.find, ih] <;> grind

/-- The memory a completion leaves, below OUT: as before. -/
theorem Memory.find_finish_lt (m : Memory) (out : List Byte) {x : Nat} (h : x < Buf.out.base) :
    Memory.find (Memory.storeBytes (Memory.below m Buf.out.base) Buf.out.base out) x = Memory.find m x := by
  rw [Memory.find_storeBytes, Memory.find_below]
  simp [h, Nat.not_le.2 h]

/-- The memory a completion leaves, in OUT: the result bytes and nothing past them. -/
theorem Memory.find_finish_out (m : Memory) (out : List Byte) (i : Nat) :
    Memory.find (Memory.storeBytes (Memory.below m Buf.out.base) Buf.out.base out) (Buf.out.base + i) = out[i]? := by
  rw [Memory.find_storeBytes, Memory.find_below]
  by_cases h : i < out.length <;> simp [h]

/-! ## Members -/

theorem Memory.mem_store {m : Memory} {a : Nat} {b : Byte} {x : Host.Cell} (h : x ∈ Memory.store m a b) :
    x = (a, b) ∨ x ∈ m := by
  induction m with
  | nil => simpa [Memory.store] using h
  | cons c m ih =>
    simp only [Memory.store] at h
    grind

theorem Memory.mem_storeBytes {bs : List Byte} {m : Memory} {a : Nat} {x : Host.Cell}
    (h : x ∈ Memory.storeBytes m a bs) : (a ≤ x.1 ∧ x.1 < a + bs.length) ∨ x ∈ m := by
  induction bs generalizing m a with
  | nil => exact .inr h
  | cons b bs ih =>
    simp only [Memory.storeBytes, List.length_cons] at h ⊢
    rcases ih h with h | h
    · left; omega
    · rcases Memory.mem_store h with rfl | h
      · left; simp
      · exact .inr h

theorem Memory.mem_below {m : Memory} {a : Nat} {x : Host.Cell} : x ∈ Memory.below m a ↔ x ∈ m ∧ x.1 < a := by
  simp [Memory.below]

/-! ## The canonical form is kept -/

theorem Memory.store_wf {m : Memory} (h : m.wf) (a : Nat) (b : Byte) : (Memory.store m a b).wf := by
  induction m with
  | nil => simp [Memory.store]
  | cons c m ih =>
    obtain ⟨y, d⟩ := c
    obtain ⟨hc, hm⟩ := List.pairwise_cons.1 h
    simp only [Memory.store]
    split
    · rename_i hlt
      refine List.pairwise_cons.2 ⟨fun x hx => ?_, h⟩
      rcases List.mem_cons.1 hx with rfl | hx
      · exact hlt
      · exact Nat.lt_trans hlt (hc x hx)
    · split
      · rename_i he
        subst he
        exact List.pairwise_cons.2 ⟨hc, hm⟩
      · refine List.pairwise_cons.2 ⟨fun x hx => ?_, ih hm⟩
        rcases Memory.mem_store hx with rfl | hx
        · show y < a; omega
        · exact hc x hx

theorem Memory.storeBytes_wf {bs : List Byte} {m : Memory} (h : m.wf) (a : Nat) : (Memory.storeBytes m a bs).wf := by
  induction bs generalizing m a with
  | nil => exact h
  | cons b bs ih => exact ih (Memory.store_wf h a b) (a + 1)

theorem Memory.below_wf {m : Memory} (h : m.wf) (a : Nat) : (Memory.below m a).wf := List.Pairwise.filter _ h

theorem State.reset_mem_wf : State.reset.mem.wf := List.Pairwise.nil

/-! ## Bytes of the buffers -/

/-- Below OUT a byte depends on the listed cells and the power-on draw alone. -/
theorem State.byteAt_congr {s t : State} {a : Nat} (ha : a < Buf.out.base)
    (hm : Memory.find t.mem a = Memory.find s.mem a) (hd : t.ramDraw = s.ramDraw) : t.byteAt a = s.byteAt a := by
  simp [State.byteAt, State.drawOf, ha, hm, hd]

/-- Completion leaves MSG and KEY as they were. -/
theorem State.byteAt_finish_lt (s : State) (e : BitVec 4) (info : Word) (out : List Byte) (code : Word) (lcnt : DWord)
    {a : Nat} (ha : a < Buf.out.base) : (s.finish e info out code lcnt).byteAt a = s.byteAt a :=
  State.byteAt_congr ha (Memory.find_finish_lt s.mem out ha) rfl

/-- After completion OUT holds the result bytes. -/
theorem State.memRead_finish (s : State) (e : BitVec 4) (info : Word) (out : List Byte) (code : Word) (lcnt : DWord) :
    (s.finish e info out code lcnt).memRead .out 0 out.length = out := by
  refine List.ext_getElem (by simp [State.memRead]) fun i h1 h2 => ?_
  simp only [State.memRead, List.getElem_map, List.getElem_range, State.byteAt, State.finish_mem, Nat.add_zero,
    Memory.find_finish_out]
  simp [h2]

@[simp] theorem State.memRead_length (s : State) (b : Buf) (off n : Nat) : (s.memRead b off n).length = n := by
  simp [State.memRead]

end Sys2Proof.Machine
end

