-- ==== Sys2Proof/Laws/Units.lean ====
section
/-! SUPPORT. The sizes and ranges of what the functional units answer. -/

namespace Sys2Proof.Machine

@[simp] theorem be32Bytes_length (w : Word) : (be32Bytes w).length = 4 := rfl

@[simp] theorem be64Bytes_length (v : DWord) : (be64Bytes v).length = 8 := rfl

@[simp] theorem xorRepeated_length (x : List Byte) (p : Byte) : (xorRepeated x p).length = x.length := by
  simp [xorRepeated]

@[simp] theorem FiveWords.bytes_length (h : FiveWords) : h.bytes.length = 20 := rfl

@[simp] theorem sha1_length (m : List Byte) : (sha1 m).length = 20 := rfl

@[simp] theorem hmacSha1_length (k m : List Byte) : (hmacSha1 k m).length = 20 := rfl

@[simp] theorem hmacKey_length (k : List Byte) : (hmacKey k).length = 64 := by
  unfold hmacKey
  split <;> (simp; try omega)

@[simp] theorem decimal_length (code n : Nat) : (decimal code n).length = n := by simp [decimal]

/-- The decoder never emits more bytes than it reads (42_base32 R141). -/
theorem base32Run_out_length (src : BitVec 2) (t : List Byte) (i : Nat) (s : B32State) :
    (base32Run src i s t).1.out.length ≤ s.out.length + t.length := by
  induction t generalizing i s with
  | nil => simp [base32Run]
  | cons c t ih =>
    simp only [base32Run, List.length_cons]
    split
    · exact Nat.le_trans (ih _ _) (by omega)
    · split
      · simp
      · rename_i idx _
        have hp : (s.push idx).out.length ≤ s.out.length + 1 := by
          simp only [B32State.push]; split <;> simp
        exact Nat.le_trans (ih _ _) (by omega)

theorem base32Decode_length {t r : List Byte} {src : BitVec 2} (h : base32Decode t src = .ok r) :
    r.length ≤ t.length := by
  have hl := base32Run_out_length src t 0 ⟨0, 0, []⟩
  simp only [base32Decode, runBase32] at h
  split at h
  · cases h; simpa using hl
  · cases h

/-- What a code is: its length was legal, its value is the truncated digest reduced, its digits are that value's. -/
theorem hotp_ok {s : List Byte} {C : DWord} {n : BitVec 4} {r : Otp} (h : hotp s C n = .ok r) :
    1 ≤ n ∧ n ≤ 9 ∧ r.code = truncate (hmacSha1 s (be64Bytes C)) % 10 ^ n.toNat ∧ r.digits = decimal r.code n.toNat := by
  simp only [hotp] at h
  split at h
  · cases h
  · rename_i hn
    cases h
    have h1 : 1 ≤ n := by bv_omega
    have h9 : n ≤ 9 := by bv_omega
    exact ⟨h1, h9, rfl, rfl⟩

/-- The one error of `Hotp` (43_hotp R150). -/
theorem hotp_error {s : List Byte} {C : DWord} {n : BitVec 4} {e : CmdError} (h : hotp s C n = .error e) :
    (n < 1 ∨ 9 < n) ∧ e = ⟨.codeLen, n.setWidth 32⟩ := by
  simp only [hotp] at h
  split at h
  · rename_i hn; cases h; exact ⟨hn, rfl⟩
  · cases h

theorem hotp_code_lt {s : List Byte} {C : DWord} {n : BitVec 4} {r : Otp} (h : hotp s C n = .ok r) :
    r.code < 10 ^ 9 := by
  obtain ⟨_, h9, hc, _⟩ := hotp_ok h
  have hn : n.toNat ≤ 9 := by bv_omega
  rw [hc]
  exact Nat.lt_of_lt_of_le (Nat.mod_lt _ (Nat.pow_pos (by decide))) (Nat.pow_le_pow_right (by decide) hn)

theorem hotp_digits_length {s : List Byte} {C : DWord} {n : BitVec 4} {r : Otp} (h : hotp s C n = .ok r) :
    r.digits.length = n.toNat ∧ n.toNat ≤ 9 := by
  obtain ⟨_, h9, _, hd⟩ := hotp_ok h
  exact ⟨by rw [hd, decimal_length], by bv_omega⟩

/-- The errors of the counter (44_totp R161). -/
theorem totpCounter_error {T T0 : DWord} {X : Word} {e : CmdError} (h : totpCounter T T0 X = .error e) :
    (X = 0 ∧ e = ⟨.timeRange, 1⟩) ∨ (X ≠ 0 ∧ T < T0 ∧ e = ⟨.timeRange, 2⟩) := by
  simp only [totpCounter] at h
  split at h
  · rename_i hX; cases h; exact .inl ⟨hX, rfl⟩
  · rename_i hX
    split at h
    · rename_i hT; cases h; exact .inr ⟨hX, hT, rfl⟩
    · cases h

/-- A timestamp's code is the code of its counter. -/
theorem totp_ok {s : List Byte} {T T0 : DWord} {X : Word} {n : BitVec 4} {c : DWord} {r : Otp}
    (h : totp s T T0 X n = .ok (c, r)) : totpCounter T T0 X = .ok c ∧ hotp s c n = .ok r := by
  simp only [totp] at h
  split at h
  · cases h
  · rename_i c' hc
    split at h
    · cases h
    · rename_i r' hr
      cases h
      exact ⟨hc, hr⟩

/-- The errors of a timestamp's code (44_totp R162). -/
theorem totp_error {s : List Byte} {T T0 : DWord} {X : Word} {n : BitVec 4} {e : CmdError}
    (h : totp s T T0 X n = .error e) :
    totpCounter T T0 X = .error e ∨ ∃ c, totpCounter T T0 X = .ok c ∧ hotp s c n = .error e := by
  simp only [totp] at h
  split at h
  · rename_i e' he; cases h; exact .inl he
  · rename_i c hc
    split at h
    · rename_i e' he; cases h; exact .inr ⟨c, hc, he⟩
    · cases h

end Sys2Proof.Machine
end

