-- ==== Sys2Proof/Laws/Commands.lean ====
section
/-! SUPPORT. What every command's completion is: one lemma over all of `exec`, and the bodies' results. -/

namespace Sys2Proof.Machine

/-- A result that fits: a code of at most nine digits, and no more bytes than OUT has (00_scope R9). -/
structure Result.Fits (p : Params) (r : Result) : Prop where
  code_lt : r.code.toNat < 10 ^ 9
  out_le : p.wf = true → r.out.length ≤ p.outBytes

/-- The checks of R8 that results rest on. -/
theorem Params.wf_sizes {p : Params} (h : p.wf = true) :
    p.msgBytes ≤ p.outBytes ∧ p.keyBytes ≤ p.outBytes ∧ 20 ≤ p.outBytes ∧ p.msgBytes ≤ 65536 ∧ p.keyBytes ≤ 65536
      ∧ p.outBytes ≤ 65536 := by
  simp only [Params.wf, sizeInRange, Bool.and_eq_true, decide_eq_true_eq] at h
  omega

theorem State.message_ok {s : State} {m : List Byte} (h : s.message = .ok m) :
    m = s.memRead .msg 0 s.msgLen.toNat ∧ s.msgLen.toNat ≤ s.params.msgBytes := by
  simp only [State.message] at h
  split at h
  · cases h
  · rename_i hl; cases h; exact ⟨rfl, Nat.not_lt.1 hl⟩

theorem State.message_error {s : State} {e : CmdError} (h : s.message = .error e) :
    e = ⟨.length, 1⟩ ∧ s.params.msgBytes < s.msgLen.toNat := by
  simp only [State.message] at h
  split at h
  · rename_i hl; cases h; exact ⟨rfl, hl⟩
  · cases h

theorem State.keyBytes_ok {s : State} {k : List Byte} (h : s.keyBytes = .ok k) :
    k = s.memRead .key 0 s.keyLen.toNat ∧ s.keyLen.toNat ≤ s.params.keyBytes := by
  simp only [State.keyBytes] at h
  split at h
  · cases h
  · rename_i hl; cases h; exact ⟨rfl, Nat.not_lt.1 hl⟩

theorem State.keyBytes_error {s : State} {e : CmdError} (h : s.keyBytes = .error e) :
    e = ⟨.length, 2⟩ ∧ s.params.keyBytes < s.keyLen.toNat := by
  simp only [State.keyBytes] at h
  split at h
  · rename_i hl; cases h; exact ⟨rfl, hl⟩
  · cases h

theorem digest_fits (p : Params) (out : List Byte) (h : out.length = 20) : Result.Fits p ⟨out, 0, 0⟩ where
  code_lt := by show (0 : Nat) < _; decide
  out_le hw := by rw [h]; exact (Params.wf_sizes hw).2.2.1

theorem State.sha1Body_fits {s : State} {r : Result} (h : s.sha1Body = .ok r) : r.Fits s.params := by
  simp only [State.sha1Body, bind, Except.bind] at h
  split at h
  · cases h
  · cases h; exact digest_fits _ _ rfl

theorem State.hmacBody_fits {s : State} {r : Result} (h : s.hmacBody = .ok r) : r.Fits s.params := by
  simp only [State.hmacBody, bind, Except.bind] at h
  split at h
  · cases h
  · split at h
    · cases h
    · cases h; exact digest_fits _ _ rfl

theorem State.b32decBody_fits {s : State} {r : Result} (h : s.b32decBody = .ok r) : r.Fits s.params := by
  simp only [State.b32decBody, bind, Except.bind] at h
  split at h
  · cases h
  · rename_i t ht
    split at h
    · cases h
    · rename_i out hout
      cases h
      refine ⟨by show (0 : Nat) < _; decide, fun hw => ?_⟩
      obtain ⟨rfl, hl⟩ := State.message_ok ht
      have h1 := base32Decode_length hout
      rw [State.memRead_length] at h1
      exact Nat.le_trans h1 (Nat.le_trans hl (Params.wf_sizes hw).1)

theorem Otp.result_fits {s : List Byte} {C : DWord} {n : BitVec 4} {r : Otp} (h : hotp s C n = .ok r) (c : DWord)
    (p : Params) : (r.result c).Fits p where
  code_lt := by
    have hc := hotp_code_lt h
    simp only [Otp.result, BitVec.toNat_ofNat]
    exact Nat.lt_of_le_of_lt (Nat.mod_le _ _) hc
  out_le hw := by
    obtain ⟨hl, h9⟩ := hotp_digits_length h
    have h20 := (Params.wf_sizes hw).2.2.1
    simp only [Otp.result, hl]
    omega

theorem State.hotpBody_fits {s : State} {b : Bool} {r : Result} (h : s.hotpBody b = .ok r) : r.Fits s.params := by
  simp only [State.hotpBody, bind, Except.bind] at h
  split at h
  · cases h
  · split at h
    · cases h
    · rename_i o ho; cases h; exact Otp.result_fits ho _ _

theorem State.totpBody_fits {s : State} {b : Bool} {r : Result} (h : s.totpBody b = .ok r) : r.Fits s.params := by
  simp only [State.totpBody, bind, Except.bind] at h
  split at h
  · cases h
  · split at h
    · cases h
    · rename_i o ho; cases h; exact Otp.result_fits (totp_ok ho).2 _ _

theorem State.getcodeBody_fits {s : State} {d : Bool} {r : Result} (h : s.getcodeBody d = .ok r) :
    r.Fits s.params := by
  simp only [State.getcodeBody, bind, Except.bind] at h
  split at h
  · cases h
  · split at h
    · cases h
    · split at h
      · cases h
      · rename_i o ho; cases h; exact Otp.result_fits (totp_ok ho).2 _ _

/-! ## Errors that GETCODE can catch -/

theorem base32Run_error {src : BitVec 2} {t : List Byte} {i : Nat} {s : B32State} {e : CmdError}
    (h : (base32Run src i s t).2 = some e) : e.code = .base32Char := by
  induction t generalizing i s with
  | nil => cases h
  | cons c t ih =>
    simp only [base32Run] at h
    split at h
    · exact ih h
    · split at h
      · cases h; rfl
      · exact ih h

theorem base32Decode_error {t : List Byte} {src : BitVec 2} {e : CmdError} (h : base32Decode t src = .error e) :
    e.code = .base32Char := by
  simp only [base32Decode] at h
  split at h
  · cases h
  · rename_i e' he; cases h; exact base32Run_error he

theorem totp_error_code {s : List Byte} {T T0 : DWord} {X : Word} {n : BitVec 4} {e : CmdError}
    (h : totp s T T0 X n = .error e) : e.code = .timeRange ∨ e.code = .codeLen := by
  rcases totp_error h with h | ⟨c, _, h⟩
  · rcases totpCounter_error h with ⟨_, rfl⟩ | ⟨_, _, rfl⟩ <;> exact .inl rfl
  · rw [(hotp_error h).2]; exact .inr rfl

/-- ILLEGAL_CMD is not part of any chain a GETCODE runs (60_exceptions R186). -/
theorem State.getcodeBody_error {s : State} {d : Bool} {e : CmdError} (h : s.getcodeBody d = .error e) :
    e.code ≠ .illegalCmd := by
  simp only [State.getcodeBody, bind, Except.bind] at h
  split at h
  · rename_i e' he
    cases h
    simp only [State.getcodeText, bind, Except.bind] at he
    split at he
    · cases he
    · split at he
      · rename_i e' he'; cases he; rw [(State.keyBytes_error he').1]; decide
      · cases he
  · split at h
    · rename_i e' he; cases h; rw [base32Decode_error he]; decide
    · split at h
      · rename_i e' he
        cases h
        rcases totp_error_code he with h | h <;> rw [h] <;> decide
      · cases h

theorem ErrCode.code_le (e : ErrCode) : e.code ≤ 5 ∧ e.code ≠ 0 := by cases e <;> decide

theorem ErrCode.code_ne_illegal {e : ErrCode} (h : e ≠ .illegalCmd) : e.code ≠ 3 := by
  cases e <;> first | decide | exact absurd rfl h

/-! ## All of exec -/

/-- What one completion writes: the new LOG, the error code, and the result, empty after an error. -/
structure Ending (s : State) (log err : BitVec 4) (r : Result) : Prop where
  err_le : err ≤ 5
  err_empty : err ≠ 0 → r = ⟨[], 0, 0⟩
  log_ok : log = s.log ∨ (log ≤ 5 ∧ log ≠ 3)
  fits : r.Fits s.params

theorem Ending.empty {s : State} {log err : BitVec 4} (he : err ≤ 5) (hl : log = s.log ∨ (log ≤ 5 ∧ log ≠ 3)) :
    Ending s log err ⟨[], 0, 0⟩ :=
  ⟨he, fun _ => rfl, hl, by decide, fun _ => Nat.zero_le _⟩

theorem State.conclude_ending (s : State) (w : Work) (x : Except CmdError Result)
    (hx : ∀ r, x = .ok r → r.Fits s.params) :
    ∃ err info r, State.conclude { s with work := w } x
        = State.finish { s with work := w, log := s.log } err info r.out r.code r.lcnt ∧ Ending s s.log err r := by
  match x, hx with
  | .ok r, hx => exact ⟨0, 0, r, rfl, by decide, fun h => absurd rfl h, .inl rfl, hx r rfl⟩
  | .error e, _ => exact ⟨e.code.code, e.info, ⟨[], 0, 0⟩, rfl, .empty e.code.code_le.1 (.inl rfl)⟩

theorem State.concludeCaught_ending (s : State) (w : Work) (x : Except CmdError Result)
    (hx : ∀ r, x = .ok r → r.Fits s.params) (he : ∀ e, x = .error e → e.code ≠ .illegalCmd) :
    ∃ log err info r, State.concludeCaught { s with work := w } x
        = State.finish { s with work := w, log := log } err info r.out r.code r.lcnt ∧ Ending s log err r := by
  match x, hx, he with
  | .ok r, hx, _ => exact ⟨0, 0, 0, r, rfl, by decide, fun h => absurd rfl h, .inr (by decide), hx r rfl⟩
  | .error e, _, he =>
    exact ⟨e.code.code, 0, e.info, ⟨[], 0, 0⟩, rfl,
      .empty (by decide) (.inr ⟨e.code.code_le.1, ErrCode.code_ne_illegal (he e rfl)⟩)⟩

/-- Every command answers a next state, and that state is one completion record (60_exceptions R183). -/
theorem exec_ending (i : Instr) (s : State) :
    ∃ w log err info r,
      exec i s = .next (State.finish { s with work := w, log := log } err info r.out r.code r.lcnt)
        ∧ Ending s log err r := by
  cases i with
  | sha1 =>
    obtain ⟨err, info, r, h, hr⟩ := s.conclude_ending s.workAfterSha1 _ fun _ => State.sha1Body_fits
    exact ⟨_, _, err, info, r, congrArg _ h, hr⟩
  | hmac =>
    obtain ⟨err, info, r, h, hr⟩ := s.conclude_ending s.workAfterHmac _ fun _ => State.hmacBody_fits
    exact ⟨_, _, err, info, r, congrArg _ h, hr⟩
  | b32dec =>
    obtain ⟨err, info, r, h, hr⟩ := s.conclude_ending s.workAfterB32dec _ fun _ => State.b32decBody_fits
    exact ⟨_, _, err, info, r, congrArg _ h, hr⟩
  | hotp b =>
    obtain ⟨err, info, r, h, hr⟩ := s.conclude_ending (s.workAfterHotp b) _ fun _ => State.hotpBody_fits (b := b)
    exact ⟨_, _, err, info, r, congrArg _ h, hr⟩
  | totp b =>
    obtain ⟨err, info, r, h, hr⟩ := s.conclude_ending (s.workAfterTotp b) _ fun _ => State.totpBody_fits (b := b)
    exact ⟨_, _, err, info, r, congrArg _ h, hr⟩
  | getcode d =>
    obtain ⟨log, err, info, r, h, hr⟩ := s.concludeCaught_ending (s.workAfterGetcode d) _
      (fun _ => State.getcodeBody_fits (d := d)) (fun _ => State.getcodeBody_error (d := d))
    exact ⟨_, log, err, info, r, congrArg _ h, hr⟩

end Sys2Proof.Machine
end

