-- ==== Sys2Proof/Laws/Step.lean ====
section
/-! SUPPORT. What one step can do, and what one host access can do. -/

namespace Sys2Proof.Machine

/-- The engine's turn: nothing while IDLE; one completion record while BUSY. -/
theorem State.engineTurn_cases (s : State) :
    (s.busy = false ∧ s.engineTurn = .next s) ∨
    (s.busy = true ∧ ∃ w log err info r,
      s.engineTurn = .next (State.finish { s with work := w, log := log } err info r.out r.code r.lcnt)
        ∧ Ending s log err r) := by
  unfold State.engineTurn
  cases hb : s.busy with
  | false => exact .inl ⟨rfl, rfl⟩
  | true =>
    refine .inr ⟨rfl, ?_⟩
    simp only [if_true, State.complete]
    split
    · exact exec_ending _ s
    · exact ⟨s.work, s.log, _, _, ⟨[], 0, 0⟩, rfl, .empty (ErrCode.code_le _).1 (.inl rfl)⟩

/-- With well-formed parameters a step is its move. -/
theorem step_move {s : State} (hw : s.params.wf = true) : step s = s.move := by
  simp only [step, hw, if_true]

/-- What a step does when it answers a next state: the engine's turn, a host access, a change of NOW, or a
power-on reset, with well-formed parameters in each case. -/
theorem step_next_cases {s t : State} (h : step s = .next t) :
    s.params.wf = true ∧
      ((s.EngineNext ∧ s.pop.engineTurn = .next t) ∨
       (∃ x, s.inputs.head? = some (.access x) ∧ t = s.pop.bus x) ∨
       (∃ v, s.inputs.head? = some (.driveNow v) ∧ t = { s.pop with nowIn := v }) ∨
       (s.inputs.head? = some .powerOn ∧ t = s.pop.powerOn)) := by
  unfold step at h
  split at h
  · rename_i hw
    refine ⟨hw, ?_⟩
    unfold State.move at h
    split at h
    · rename_i he
      refine .inl ⟨.inl he, ?_⟩
      have : s.pop = s := by cases s; simp_all [State.pop]
      rw [this]; exact h
    · rename_i e rest he
      have hp : { s with inputs := rest } = s.pop := by simp [State.pop, he]
      rw [hp] at h
      have hh : s.inputs.head? = some e := by simp [he]
      cases e with
      | access x => cases h; exact .inr (.inl ⟨x, hh, rfl⟩)
      | engine => exact .inl ⟨.inr hh, h⟩
      | driveNow v => cases h; exact .inr (.inr (.inl ⟨v, hh, rfl⟩))
      | powerOn => cases h; exact .inr (.inr (.inr ⟨hh, rfl⟩))
  · cases h

/-- A step refuses ill-formed parameters and nothing else, and never faults. -/
theorem step_answers (s : State) : if s.params.wf then ∃ t, step s = .next t else step s = .refused .badParameters := by
  unfold step
  split
  · unfold State.move
    split
    · rcases s.engineTurn_cases with ⟨_, h⟩ | ⟨_, w, l, e, i, r, h, _⟩ <;> exact ⟨_, h⟩
    · rename_i e rest _
      cases e with
      | engine =>
        rcases State.engineTurn_cases { s with inputs := rest } with ⟨_, h⟩ | ⟨_, w, l, e, i, r, h, _⟩ <;> exact ⟨_, h⟩
      | _ => exact ⟨_, rfl⟩
  · rfl

/-! ## Host accesses -/

/-- A write that takes effect only while IDLE. -/
theorem State.ifIdle_cases (s w : State) :
    (s.busy = false ∧ s.ifIdle w = w) ∨ (s.busy = true ∧ s.ifIdle w = s.dropWrite) := by
  unfold State.ifIdle; cases s.busy <;> simp

/-- Where a buffer target lies: its bytes are backed, and it is no wider than its size. -/
theorem Access.target_buf {p : Params} {x : Access} :
    (∀ b i, x.target p = .byte b i → x.size = 1 ∧ i < b.size p ∧ x.offset.toNat = b.base + i) ∧
    (∀ b i, x.target p = .word b i → x.size = 4 ∧ i + 4 ≤ b.size p ∧ x.offset.toNat = b.base + i) := by
  have key : ∀ a : Nat, Buf.msg.base ≤ a → (Buf.ofOffset a).base ≤ a := by
    intro a ha
    unfold Buf.ofOffset
    by_cases h1 : a < Buf.key.base
    · simpa [h1] using ha
    · by_cases h2 : a < Buf.out.base
      · simp [h1, h2, Nat.not_lt.1 h1]
      · simp [h1, h2, Nat.not_lt.1 h2]
  unfold Access.target
  split
  · constructor <;> intro b i h <;> simp only [regTarget] at h <;> (repeat' split at h) <;> cases h
  · rename_i ha
    have hb := key x.offset.toNat (Nat.not_lt.1 ha)
    constructor <;> intro b i h <;> simp only [bufTarget] at h <;> (repeat' split at h) <;> cases h
    all_goals rename_i hc
    · exact ⟨hc.1, hc.2, by omega⟩
    · exact ⟨hc.1, hc.2.2, by omega⟩

/-- What one host access does: it is turned away, it is a read, it writes a register, or it writes buffer bytes that
are all backed. -/
theorem State.bus_cases (s : State) (x : Access) :
    (x.target s.params = .bad ∧ s.bus x = { s with answer := some .error }) ∨
    (x.dir = .read ∧ ∃ d, s.bus x = s.answerRead d) ∨
    (∃ r v, x.target s.params = .reg r ∧ x.dir = .write v ∧ s.bus x = (s.writeReg r v).answerOkay) ∨
    (∃ b i bytes, b.base + i = x.offset.toNat ∧ i + bytes.length ≤ b.size s.params ∧ (∃ v, x.dir = .write v)
      ∧ s.bus x = (s.writeBuf b i bytes).answerOkay) := by
  obtain ⟨hbyte, hword⟩ := Access.target_buf (p := s.params) (x := x)
  unfold State.bus
  cases ht : x.target s.params with
  | bad => exact .inl ⟨rfl, rfl⟩
  | reg r =>
    cases hd : x.dir with
    | read => exact .inr (.inl ⟨rfl, _, rfl⟩)
    | write v => exact .inr (.inr (.inl ⟨r, v, rfl, rfl, rfl⟩))
  | byte b i =>
    cases hd : x.dir with
    | read => exact .inr (.inl ⟨rfl, _, rfl⟩)
    | write v =>
      obtain ⟨_, hi, ho⟩ := hbyte b i ht
      exact .inr (.inr (.inr ⟨b, i, [v.setWidth 8], ho.symm, hi, ⟨v, rfl⟩, rfl⟩))
  | word b i =>
    cases hd : x.dir with
    | read => exact .inr (.inl ⟨rfl, _, rfl⟩)
    | write v =>
      obtain ⟨_, hi, ho⟩ := hword b i ht
      exact .inr (.inr (.inr ⟨b, i, be32Bytes v, ho.symm, hi, ⟨v, rfl⟩, rfl⟩))

end Sys2Proof.Machine
end

