-- ==== Sys2Proof/Laws/Completion.lean ====
section
/-! SUPPORT. What a completion leaves, what each operand check answers, and what the engine's turn is. -/

namespace Sys2Proof.Machine

/-! ## The completion record -/

/-- A 64-bit value split over a register pair and joined again (10_state R46). -/
theorem extract_append_extract (v : DWord) : v.extractLsb' 32 32 ++ v.extractLsb' 0 32 = v := by
  apply BitVec.eq_of_getLsbD_eq
  intro i hi
  simp only [BitVec.getLsbD_append, BitVec.getLsbD_extractLsb']
  by_cases h : i < 32
  · simp [h]
  · simp [h, show i - 32 < 32 by omega, show 32 + (i - 32) = i by omega]

theorem finish_sameInputs (s : State) (w : Work) (log e : BitVec 4) (info : Word) (out : List Byte) (code : Word)
    (lcnt : DWord) : SameInputs s (State.finish { s with work := w, log := log } e info out code lcnt) := by
  constructor <;> try rfl
  intro a ha
  exact State.byteAt_finish_lt { s with work := w, log := log } e info out code lcnt ha

theorem finish_completed (s : State) (w : Work) (log e : BitVec 4) (info : Word) (out : List Byte) (code : Word)
    (lcnt : DWord) :
    Completed (State.finish { s with work := w, log := log } e info out code lcnt) e log info out.length code lcnt := by
  constructor <;> try rfl
  exact extract_append_extract lcnt

theorem finish_irq (s : State) (e : BitVec 4) (info : Word) (out : List Byte) (code : Word) (lcnt : DWord) :
    (State.finish s e info out code lcnt).irq = s.ie := by
  simp [State.irq]

/-- A command that succeeds (60_exceptions R183). -/
theorem conclude_ok (s : State) (w : Work) (r : Result) :
    ∃ t, State.conclude { s with work := w } (.ok r) = t ∧ SameInputs s t ∧
      Completed t 0 s.log 0 r.out.length r.code r.lcnt ∧ t.OutHolds r.out :=
  ⟨_, rfl, finish_sameInputs s w s.log _ _ _ _ _, finish_completed s w s.log _ _ _ _ _,
    State.memRead_finish _ _ _ _ _ _⟩

/-- A command that reports an error (60_exceptions R183). -/
theorem conclude_error (s : State) (w : Work) (e : CmdError) :
    ∃ t, State.conclude { s with work := w } (.error e) = t ∧ Failed s t e.code e.info :=
  ⟨_, rfl, finish_sameInputs s w s.log _ _ _ _ _, finish_completed s w s.log _ _ [] _ _⟩

/-- A GETCODE that succeeds (44_totp R163). -/
theorem concludeCaught_ok (s : State) (w : Work) (r : Result) :
    ∃ t, State.concludeCaught { s with work := w } (.ok r) = t ∧ SameInputs s t ∧
      Completed t 0 0 0 r.out.length r.code r.lcnt ∧ t.OutHolds r.out :=
  ⟨_, rfl, finish_sameInputs s w 0 _ _ _ _ _, finish_completed s w 0 _ _ _ _ _, State.memRead_finish _ _ _ _ _ _⟩

/-- A GETCODE that catches an error (44_totp R164). -/
theorem concludeCaught_error (s : State) (w : Work) (e : CmdError) :
    ∃ t, State.concludeCaught { s with work := w } (.error e) = t ∧ Caught s t e.code e.info :=
  ⟨_, rfl, finish_sameInputs s w _ _ _ _ _ _, finish_completed s w _ _ _ [] _ _⟩

/-! ## The operands -/

theorem State.message_eq {s : State} (h : s.msgLen.toNat ≤ s.params.msgBytes) :
    s.message = .ok (s.memRead .msg 0 s.msgLen.toNat) := by
  simp [State.message, Nat.not_lt.2 h]

theorem State.message_length {s : State} (h : s.params.msgBytes < s.msgLen.toNat) : s.message = .error ⟨.length, 1⟩ := by
  simp [State.message, h]

theorem State.keyBytes_eq {s : State} (h : s.keyLen.toNat ≤ s.params.keyBytes) :
    s.keyBytes = .ok (s.memRead .key 0 s.keyLen.toNat) := by
  simp [State.keyBytes, Nat.not_lt.2 h]

theorem State.keyBytes_length {s : State} (h : s.params.keyBytes < s.keyLen.toNat) :
    s.keyBytes = .error ⟨.length, 2⟩ := by
  simp [State.keyBytes, h]

theorem State.resolveSecret_eq {s : State} {b : Bool} {k : List Byte} (h : s.SecretIs b k) :
    s.resolveSecret b = .ok k := by
  obtain ⟨h1, h2⟩ := h
  simp only [State.resolveSecret, State.keyBytes_eq h1, bind, Except.bind]
  cases b
  · simp at h2; simp [h2]
  · simpa using h2

theorem State.getcodeText_eq {s : State} {d : Bool} {t : List Byte} {src : BitVec 2} (h : s.TextIs d t src) :
    s.getcodeText d = .ok (t, src) := by
  unfold State.TextIs at h
  cases d
  · simp at h
    obtain ⟨h1, rfl, rfl⟩ := h
    simp [State.getcodeText, State.keyBytes_eq h1, bind, Except.bind]
  · simp at h
    obtain ⟨rfl, rfl⟩ := h
    simp [State.getcodeText]

/-! ## The units -/

theorem hotp_eq {k : List Byte} {C : DWord} {n : BitVec 4} (h1 : 1 ≤ n) (h9 : n ≤ 9) :
    hotp k C n = .ok ⟨codeOf k C n.toNat, decimal (codeOf k C n.toNat) n.toNat⟩ := by
  have : ¬ (n < 1 ∨ 9 < n) := by bv_omega
  simp only [hotp, this, if_false]
  rfl

theorem hotp_codeLen {k : List Byte} {C : DWord} {n : BitVec 4} (h : n < 1 ∨ 9 < n) :
    hotp k C n = .error ⟨.codeLen, n.setWidth 32⟩ := by
  simp only [hotp, h, if_true]

theorem totpCounter_eq {T T0 : DWord} {X : Word} (h : X ≠ 0) (h2 : T0 ≤ T) :
    totpCounter T T0 X = .ok (BitVec.ofNat 64 ((T.toNat - T0.toNat) / X.toNat)) := by
  have : ¬ T < T0 := by bv_omega
  simp only [totpCounter, h, this, if_false]

/-- The decoder's step on a run that has not failed keeps fewer than 8 bits and their value below 2^bits. -/
theorem B32State.push_small {s : B32State} {i : Nat} (h1 : s.nbits < 8) (h2 : s.acc < 2 ^ s.nbits) (h3 : i < 32) :
    (s.push i).nbits < 8 ∧ (s.push i).acc < 2 ^ (s.push i).nbits := by
  simp only [B32State.push]
  split
  · exact ⟨by simp only []; omega, Nat.mod_lt _ (Nat.two_pow_pos _)⟩
  · refine ⟨by simp only []; omega, ?_⟩
    show s.acc * 32 + i < 2 ^ (s.nbits + 5)
    rw [Nat.pow_add]
    omega

/-! ## The step -/

/-- When the engine moves next, the step is its turn. -/
theorem step_turn {s : State} (hw : s.params.wf = true) (he : s.EngineNext) : step s = s.pop.engineTurn := by
  simp only [step, hw, if_true, State.move]
  rcases he with he | he
  · have hp : s.pop = s := by cases s; simp_all [State.pop]
    rw [hp]
    split
    · rfl
    · simp_all
  · split
    · simp_all
    · rename_i e rest h
      have : e = .engine := by simpa [h] using he
      subst this
      have hp : s.pop = { s with inputs := rest } := by simp [State.pop, h]
      rw [hp]
      rfl

theorem State.engineTurn_idle {s : State} (hb : s.busy = false) : s.engineTurn = .next s := by
  unfold State.engineTurn
  rw [if_neg (by simp [hb])]

theorem State.engineTurn_busy {s : State} (hb : s.busy = true) : s.engineTurn = s.complete := by
  unfold State.engineTurn
  rw [if_pos hb]

end Sys2Proof.Machine
end

