-- ==== Sys2Proof/Laws/Bus.lean ====
section
/-! SUPPORT. Where each access lands, and what it does there. -/

namespace Sys2Proof.Machine

/-! ## Registers -/

theorem Access.target_reg (p : Params) (d : Dir) (r : Reg) :
    Access.target p ⟨d, BitVec.ofNat 18 r.offset, 4⟩ = .reg r := by
  have h1 : (BitVec.ofNat 18 r.offset).toNat = r.offset := by cases r <;> rfl
  have h2 : Reg.ofOffset r.offset = some r := by cases r <;> decide
  have h3 : r.offset < Buf.msg.base := by cases r <;> decide
  have h4 : r.offset % 4 = 0 := by cases r <;> rfl
  simp only [Access.target, h1, h3, if_true, regTarget, h2, h4, and_self]

theorem State.bus_write_reg (s : State) (r : Reg) (v : Word) :
    s.bus ⟨.write v, BitVec.ofNat 18 r.offset, 4⟩ = (s.writeReg r v).answerOkay := by
  simp only [State.bus, Access.target_reg]

theorem State.bus_read_reg (s : State) (r : Reg) :
    s.bus ⟨.read, BitVec.ofNat 18 r.offset, 4⟩ = s.answerRead (.word (s.readReg r)) := by
  simp only [State.bus, Access.target_reg]

/-! ## Buffers -/

theorem Buf.size_le {p : Params} (hw : p.wf = true) (b : Buf) : b.size p ≤ 65536 := by
  obtain ⟨_, _, _, h4, h5, h6⟩ := Params.wf_sizes hw
  cases b <;> assumption

/-- A buffer's window is 65536 bytes from its base (20_memory R61). -/
theorem Buf.ofOffset_eq {b : Buf} {a : Nat} (h1 : b.base ≤ a) (h2 : a < b.base + 65536) : Buf.ofOffset a = b := by
  have m : Buf.msg.base = 0x10000 := rfl
  have k : Buf.key.base = 0x20000 := rfl
  have o : Buf.out.base = 0x30000 := rfl
  unfold Buf.ofOffset
  cases b
  · rw [m] at h1 h2
    have : a < Buf.key.base := by rw [k]; omega
    simp only [this, if_true]
  · rw [k] at h1 h2
    have h3 : ¬ a < Buf.key.base := by rw [k]; omega
    have h4 : a < Buf.out.base := by rw [o]; omega
    simp only [h3, h4, if_true, if_false]
  · rw [o] at h1 h2
    have h3 : ¬ a < Buf.key.base := by rw [k]; omega
    have h4 : ¬ a < Buf.out.base := by rw [o]; omega
    simp only [h3, h4, if_false]

theorem Access.target_word {p : Params} (hw : p.wf = true) (d : Dir) (b : Buf) {i : Nat} (h : i % 4 = 0)
    (h' : i + 4 ≤ b.size p) : Access.target p ⟨d, BitVec.ofNat 18 (b.base + i), 4⟩ = .word b i := by
  have hs := Buf.size_le hw b
  have e : (BitVec.ofNat 18 (b.base + i)).toNat = b.base + i := by
    rw [BitVec.toNat_ofNat, Nat.mod_eq_of_lt]
    cases b <;> simp only [Buf.base] <;> omega
  have o : Buf.ofOffset (b.base + i) = b := Buf.ofOffset_eq (by omega) (by omega)
  have g : ¬ b.base + i < Buf.msg.base := by cases b <;> simp only [Buf.base] <;> omega
  have m : (b.base + i) % 4 = 0 := by cases b <;> simp [Buf.base] <;> omega
  simp only [Access.target, e, g, if_false, bufTarget, o, Nat.add_sub_cancel_left, h', m, and_self, if_true]
  simp

theorem Access.target_byte {p : Params} (hw : p.wf = true) (d : Dir) (b : Buf) {i : Nat} (h' : i < b.size p) :
    Access.target p ⟨d, BitVec.ofNat 18 (b.base + i), 1⟩ = .byte b i := by
  have hs := Buf.size_le hw b
  have e : (BitVec.ofNat 18 (b.base + i)).toNat = b.base + i := by
    rw [BitVec.toNat_ofNat, Nat.mod_eq_of_lt]
    cases b <;> simp only [Buf.base] <;> omega
  have o : Buf.ofOffset (b.base + i) = b := Buf.ofOffset_eq (by omega) (by omega)
  have g : ¬ b.base + i < Buf.msg.base := by cases b <;> simp only [Buf.base] <;> omega
  simp only [Access.target, e, g, if_false, bufTarget, o, Nat.add_sub_cancel_left, h', and_self, if_true]

theorem State.bus_read_word {s : State} (hw : s.params.wf = true) {b : Buf} {i : Nat} (h : i % 4 = 0)
    (h' : i + 4 ≤ b.size s.params) :
    s.bus ⟨.read, BitVec.ofNat 18 (b.base + i), 4⟩ = s.answerRead (.word (s.busWord b i)) := by
  simp only [State.bus, Access.target_word hw _ b h h']

theorem State.bus_read_byte {s : State} (hw : s.params.wf = true) {b : Buf} {i : Nat} (h' : i < b.size s.params) :
    s.bus ⟨.read, BitVec.ofNat 18 (b.base + i), 1⟩ = s.answerRead (.byte (s.busByte b i)) := by
  simp only [State.bus, Access.target_byte hw _ b h']

theorem State.busByte_idle {s : State} (hb : s.busy = false) (b : Buf) (i : Nat) :
    s.busByte b i = s.byteAt (b.base + i) := by
  simp [State.busByte, hb]

/-- A host write to MSG or KEY while IDLE. -/
theorem State.writeBuf_idle {s : State} (hb : s.busy = false) {b : Buf} (ho : b ≠ .out) (i : Nat) (bytes : List Byte) :
    s.writeBuf b i bytes = { s with mem := s.mem.storeBytes (b.base + i) bytes } := by
  cases b
  · simp [State.writeBuf, State.ifIdle, hb]
  · simp [State.writeBuf, State.ifIdle, hb]
  · exact absurd rfl ho

/-- The bytes of a state after a store. -/
theorem State.byteAt_storeBytes (s : State) (a x : Nat) (bytes : List Byte) :
    State.byteAt { s with mem := s.mem.storeBytes a bytes } x =
      if a ≤ x ∧ x < a + bytes.length then bytes.getD (x - a) 0 else s.byteAt x := by
  unfold State.byteAt
  rw [Memory.find_storeBytes]
  split
  · rename_i h
    rw [List.getElem?_eq_getElem (by omega), List.getD_eq_getElem _ _ (by omega)]
    rfl
  · rfl

/-! ## Byte order -/

theorem be32_extract (v : Word) :
    be32 (v.extractLsb' 24 8) (v.extractLsb' 16 8) (v.extractLsb' 8 8) (v.extractLsb' 0 8) = v := by
  apply BitVec.eq_of_toNat_eq
  have := v.isLt
  simp only [be32, BitVec.toNat_append, BitVec.extractLsb'_toNat]
  rw [← Nat.shiftLeft_add_eq_or_of_lt (by omega), ← Nat.shiftLeft_add_eq_or_of_lt (by omega),
    ← Nat.shiftLeft_add_eq_or_of_lt (by omega)]
  simp only [Nat.shiftLeft_eq, Nat.shiftRight_eq_div_pow]
  omega

theorem be32Bytes_be32 (b0 b1 b2 b3 : Byte) : be32Bytes (be32 b0 b1 b2 b3) = [b0, b1, b2, b3] := by
  simp only [be32Bytes, be32, List.cons.injEq, and_true]
  refine ⟨?_, ?_, ?_, ?_⟩ <;>
    (apply BitVec.eq_of_getLsbD_eq
     intro k hk
     simp only [BitVec.getLsbD_extractLsb', BitVec.getLsbD_append]
     interval_cases k <;> simp)

/-- The fields of a STATUS word (10_state R26). -/
theorem State.statusWord_fields (s : State) (e l : BitVec 4) :
    (s.statusWord e l).getLsbD 0 = s.busy ∧ (s.statusWord e l).getLsbD 1 = s.done ∧
      (s.statusWord e l).getLsbD 2 = s.ovr ∧ (s.statusWord e l).getLsbD 3 = s.irq ∧
      (s.statusWord e l).extractLsb' 4 4 = e ∧ (s.statusWord e l).extractLsb' 8 4 = l := by
  simp only [State.statusWord]
  generalize s.busy = a; generalize s.done = b; generalize s.ovr = c; generalize s.irq = d
  revert a b c d e l
  decide

end Sys2Proof.Machine
end

