-- ==== Sys2Proof/Laws/Busy.lean ====
section
/-! SUPPORT. What stands while a command runs: the word it was issued with, and the turns of a host program. -/

namespace Sys2Proof.Machine

/-- The host's write of a word to CMD while IDLE is its acceptance (20_memory R69). -/
theorem State.issue_idle {s : State} (hb : s.busy = false) (v : Word) : s.issue v = (s.accept v).answerOkay := by
  refine (s.bus_write_reg .cmd v).trans ?_
  simp only [State.writeReg, State.ifIdle, hb, Bool.false_eq_true, if_false]

/-- A step whose turn is the engine's, while BUSY, is the completion. -/
theorem step_complete {s : State} (hw : s.params.wf = true) (hb : s.busy = true) (he : s.EngineNext) :
    step s = s.pop.complete :=
  (step_turn hw he).trans (State.engineTurn_busy hb)

/-- The completion of a command (60_exceptions R183). -/
theorem State.complete_ok {s : State} {i : Instr} (h : decode s.cmd = .ok i) : s.complete = exec i s := by
  simp only [State.complete, h]

/-- The completion of an illegal word (60_exceptions R183). -/
theorem State.complete_error {s : State} {c : Illegal} (h : decode s.cmd = .error c) :
    s.complete = .next (s.raise ⟨.illegalCmd, s.cmd⟩) := by
  simp only [State.complete, h]

/-- A host access that leaves the block BUSY leaves what acceptance latched and every operand (20_memory R70). -/
theorem State.bus_busy {s : State} (hb : s.busy = true) (x : Access) (h : (s.bus x).busy = true) :
    (s.bus x).cmd = s.cmd ∧ (s.bus x).now = s.now ∧ AgreeOnOperands s (s.bus x) := by
  have fin : ∀ t : State, t = s ∨ t = s.dropWrite →
      t.answerOkay.cmd = s.cmd ∧ t.answerOkay.now = s.now ∧ AgreeOnOperands s t.answerOkay := by
    rintro t (rfl | rfl) <;> exact ⟨rfl, rfl, by constructor <;> intros <;> rfl⟩
  have idle : ∀ w, s.ifIdle w = s.dropWrite := fun w => by simp [State.ifIdle, hb]
  rcases s.bus_cases x with ⟨_, e⟩ | ⟨_, d, e⟩ | ⟨r, v, _, _, e⟩ | ⟨b, i, bs, _, _, _, e⟩ <;> rw [e]
  · exact ⟨rfl, rfl, by constructor <;> intros <;> rfl⟩
  · exact ⟨rfl, rfl, by constructor <;> intros <;> rfl⟩
  · rw [e] at h
    cases r <;> simp only [State.writeReg, idle] at h ⊢ <;>
      first | exact fin _ (.inl rfl) | exact fin _ (.inr rfl) | skip
    · unfold State.writeCtrl at h ⊢
      split
      · rename_i hv; rw [if_pos hv] at h; cases h
      · exact ⟨rfl, rfl, by constructor <;> intros <;> rfl⟩
    · exact ⟨rfl, rfl, by constructor <;> intros <;> rfl⟩
  · cases b <;> simp only [State.writeBuf, idle] <;> first | exact fin _ (.inl rfl) | exact fin _ (.inr rfl)

/-- A step from BUSY to BUSY leaves what acceptance latched and the parameters. -/
theorem step_busy {s t : State} (hb : s.busy = true) (h : step s = .next t) (ht : t.busy = true) :
    t.cmd = s.cmd ∧ t.now = s.now ∧ t.params = s.params := by
  obtain ⟨_, h⟩ := step_next_cases h
  rcases h with ⟨_, h⟩ | ⟨x, _, rfl⟩ | ⟨v, _, rfl⟩ | ⟨_, rfl⟩
  · rcases s.pop.engineTurn_cases with ⟨h', _⟩ | ⟨_, w, lg, er, info, r, e, _⟩
    · exact absurd (h'.symm.trans hb) (by decide)
    · rw [e] at h; cases h; cases ht
  · have k := State.bus_busy (s := s.pop) hb x ht
    exact ⟨k.1, k.2.1, k.2.2.params⟩
  · exact ⟨rfl, rfl, rfl⟩
  · cases ht

theorem WhileBusy.busy {s t : State} (h : WhileBusy s t) : s.busy = true ∧ t.busy = true := by
  induction h with
  | refl hb => exact ⟨hb, hb⟩
  | tail _ _ hu ih => exact ⟨ih.1, hu⟩

/-- While one command runs, what acceptance latched and the parameters stand. -/
theorem WhileBusy.stands {s t : State} (h : WhileBusy s t) :
    t.cmd = s.cmd ∧ t.now = s.now ∧ t.params = s.params := by
  induction h with
  | refl _ => exact ⟨rfl, rfl, rfl⟩
  | tail hst hs hu ih =>
    have k := step_busy hst.busy.2 hs hu
    exact ⟨k.1.trans ih.1, k.2.1.trans ih.2.1, k.2.2.trans ih.2.2⟩

/-- The draw that `GetcodeRuns` names is the one the completion reads. -/
theorem GetcodeRuns.now_eq {d : Bool} {T : DWord} {u : State} (h : GetcodeRuns d T u) : u.now = T := by
  obtain ⟨s, t, l, hb, rfl, hw, rfl⟩ := h
  have k := hw.stands.2.1
  rw [State.issue_idle hb] at k
  rw [show State.now { t with inputs := l } = t.now from rfl, k]
  cases d <;> rfl

/-! ## Host programs -/

theorem rd32_status (s : State) : s.bus (rd32 0x00C) = s.answerRead (.word (s.readReg .status)) :=
  s.bus_read_reg .status

/-- Bit 0 of STATUS is BUSY (10_state R26). -/
theorem State.readReg_status_busy (s : State) : (s.readReg .status).getLsbD 0 = s.busy := by
  simp only [State.readReg]
  split
  · exact (s.statusWord_fields _ _).1
  · exact (s.statusWord_fields _ _).1

@[simp] theorem hostTurn_access (s : State) (x : Access) (p : List HostOp) : hostTurn s (.access x :: p) = (p, s.bus x) :=
  rfl

/-- A run goes on from where a shorter schedule left it. -/
theorem runProgram_append (l m : List Turn) (p : List HostOp) (s : State) :
    runProgram (l ++ m) p s = (runProgram l p s).bind fun r => runProgram m r.1 r.2 := by
  induction l generalizing p s with
  | nil => rfl
  | cons t l ih =>
    cases t with
    | host => exact ih _ _
    | event e =>
      simp only [List.cons_append, runProgram]
      cases s.event e with
      | next u => exact ih _ _
      | fault f => rfl
      | refused r => rfl

end Sys2Proof.Machine
end

