-- ==== Sys2Proof/Laws/Decode.lean ====
section
/-! SUPPORT. Every command is well formed, and the fields of its word are its own. -/

namespace Sys2Proof

theorem Instr.wf_all (i : Instr) : i.wf = true := by
  cases i with
  | hotp b => cases b <;> decide
  | totp b => cases b <;> decide
  | getcode d => cases d <;> decide
  | _ => decide

theorem CW.ofWord_encode (i : Instr) : CW.ofWord (encode i) = i.fields := by
  cases i with
  | hotp b => cases b <;> decide
  | totp b => cases b <;> decide
  | getcode d => cases d <;> decide
  | _ => decide

end Sys2Proof
end

