-- ==== Sys2Proof/Laws/PerInstr.lean ====
section
/-! SUPPORT. The families of statements that are made per instruction (LAWS.json). -/

namespace Sys2Proof.Laws

/-- The word of a command is legal, and decodes to the command (30_encoding R93, R94). -/
def RoundTrip.Statement (i : Instr) : Prop := (CW.ofWord (encode i)).wf = true ∧ decode (encode i) = .ok i

theorem RoundTrip.sha1 : RoundTrip.Statement .sha1 := ⟨by decide, by rfl⟩

theorem RoundTrip.hmac : RoundTrip.Statement .hmac := ⟨by decide, by rfl⟩

theorem RoundTrip.b32dec : RoundTrip.Statement .b32dec := ⟨by decide, by rfl⟩

theorem RoundTrip.hotp (b32 : Bool) : RoundTrip.Statement (.hotp b32) := by
  cases b32 <;> exact ⟨by decide, by rfl⟩

theorem RoundTrip.totp (b32 : Bool) : RoundTrip.Statement (.totp b32) := by
  cases b32 <;> exact ⟨by decide, by rfl⟩

theorem RoundTrip.getcode (dflt : Bool) : RoundTrip.Statement (.getcode dflt) := by
  cases dflt <;> exact ⟨by decide, by rfl⟩

end Sys2Proof.Laws
end

