-- ==== Sys2Proof/Tests/Slice0.lean ====
section
/-! SUPPORT. Tests whose expected values are those of spec/95_test_vectors.md or worked out from the encoding tables, the
refusals of ill-formed terms, and for every statement with hypotheses a state and operands that meet them. -/

namespace Sys2Proof.Machine

-- One theorem at a time: each kernel evaluation below would otherwise hold a thread of its own.
set_option Elab.async false

/-! ## Helpers -/

/-- The bytes of an ASCII text (00_scope R16). -/
def ascii (t : String) : List Byte := t.toList.map fun c => BitVec.ofNat 8 c.toNat

/-- The parameters of V-GET-12, with the suggested sizes. -/
def sampleParams : Params := { Params.suggested with frag1 := ascii "ABCDEFGHIQS", frag2 := ascii "2345672" }

/-- The block after reset, with a message and a key loaded. -/
def loaded (msg key : List Byte) : State :=
  { State.reset with
    params := sampleParams
    mem := Memory.storeBytes (Memory.storeBytes [] 0x10000 msg) 0x20000 key
    msgLen := BitVec.ofNat 32 msg.length
    keyLen := BitVec.ofNat 32 key.length }

/-- The next state, or the state itself where there is none. -/
def orSelf (s : State) (o : Host.Outcome State Fault Refusal) : State :=
  match o with
  | .next t => t
  | .fault _ => s
  | .refused _ => s

/-- The state after one command. -/
def run (i : Instr) (s : State) : State := orSelf s (exec i s)

/-- A GETCODE accepted while NOW is at `T`. -/
def asking (d : Bool) (T : DWord) (s : State) : State := ({ s with nowIn := T }.accept (encode (.getcode d))).answerOkay

/-- The state after the accesses. -/
def State.buses (s : State) (l : List Access) : State := l.foldl State.bus s

/-- The bytes of OUT[0..OUT_LEN). -/
def State.outBytes (s : State) : List Byte := s.memRead .out 0 s.outLen.toNat

/-- ERR, LOG, ERRINFO, OUT_LEN and CODE. -/
def State.record (s : State) : BitVec 4 × BitVec 4 × Word × Word × Word := (s.err, s.log, s.errInfo, s.outLen, s.code)

/-- The RFC 4226 secret, raw and as Base32 text. -/
def rawSecret : List Byte := ascii "12345678901234567890"
def textSecret : List Byte := ascii "GEZDGNBVGY3TQOJQGEZDGNBVGY3TQOJQ"

/-! ## WellFormed: one ill-formed term for each check, and it is refused -/

theorem test_wf_op_zero : CW.wf ⟨0x00, false, false, 0⟩ = false := by decide
theorem test_wf_op_reserved : CW.wf ⟨0x07, false, false, 0⟩ = false ∧ CW.wf ⟨0xFF, false, false, 0⟩ = false := by decide
theorem test_wf_rsv : CW.wf ⟨0x01, false, false, 1⟩ = false ∧ CW.wf ⟨0x06, false, true, 0x200000⟩ = false := by decide
theorem test_wf_b32 : CW.wf ⟨0x01, true, false, 0⟩ = false ∧ CW.wf ⟨0x06, true, false, 0⟩ = false := by decide
theorem test_wf_dflt : CW.wf ⟨0x01, false, true, 0⟩ = false ∧ CW.wf ⟨0x05, false, true, 0⟩ = false := by decide
theorem test_wf_legal : CW.wf ⟨0x05, true, false, 0⟩ = true ∧ CW.wf ⟨0x06, false, true, 0⟩ = true := by decide

/-- 00_scope R8: the message buffer's size has a range and is a multiple of 4. -/
theorem test_params_msg :
    Params.wf { sampleParams with msgBytes := 60 } = false ∧
    Params.wf { sampleParams with msgBytes := 65540, outBytes := 65540 } = false ∧
    Params.wf { sampleParams with msgBytes := 66 } = false ∧ Params.wf { sampleParams with msgBytes := 64 } = true := by
  decide
theorem test_params_key :
    Params.wf { sampleParams with keyBytes := 0 } = false ∧ Params.wf { sampleParams with keyBytes := 257 } = false ∧
    Params.wf { sampleParams with keyBytes := 4100 } = false ∧ Params.wf { sampleParams with keyBytes := 4 } = true := by
  decide
theorem test_params_out :
    Params.wf { sampleParams with outBytes := 4092 } = false ∧ Params.wf { sampleParams with outBytes := 4098 } = false ∧
    Params.wf { sampleParams with outBytes := 65540 } = false ∧ Params.wf { sampleParams with outBytes := 65536 } = true := by
  decide
/-- V-GET-12, last line: 17 bytes of fragments are refused. -/
theorem test_params_fragments : Params.wf { sampleParams with frag2 := ascii "234567" } = false := by decide +kernel

/-! ## Decoding: words written out from 30_encoding R91 and R93 -/

theorem test_decode_sha1 : decode 0b00000000000000000000000000000001#32 = .ok .sha1 := by rfl
theorem test_decode_hmac : decode 0b00000000000000000000000000000010#32 = .ok .hmac := by rfl
theorem test_decode_b32dec : decode 0b00000000000000000000000000000011#32 = .ok .b32dec := by rfl
theorem test_decode_hotp :
    decode 0b00000000000000000000000000000100#32 = .ok (.hotp false) ∧
    decode 0b00000000000000000000000100000100#32 = .ok (.hotp true) := ⟨by rfl, by rfl⟩
theorem test_decode_totp :
    decode 0b00000000000000000000000000000101#32 = .ok (.totp false) ∧
    decode 0b00000000000000000000000100000101#32 = .ok (.totp true) := ⟨by rfl, by rfl⟩
theorem test_decode_getcode :
    decode 0b00000000000000000000000000000110#32 = .ok (.getcode false) ∧
    decode 0b00000000000000000000001000000110#32 = .ok (.getcode true) := ⟨by rfl, by rfl⟩
/-- The illegal words of V-SEQ-1 and V-GET-10. -/
theorem test_decode_illegal :
    decode 0x00000000 = .error .opZero ∧ decode 0x00000007 = .error .opReserved ∧
    decode 0x00000401 = .error .rsvNonzero ∧ decode 0x00000101 = .error .b32NotTaken ∧
    decode 0x00000106 = .error .b32NotTaken ∧ decode 0x00000204 = .error .dfltNotTaken :=
  ⟨by rfl, by rfl, by rfl, by rfl, by rfl, by rfl⟩
theorem test_table_word :
    decodeTableWord 32 0x00000105 = some (.totp true) ∧ decodeTableWord 32 0x00000306 = none ∧
    decodeTableWord 64 0x00000001 = none := by
  decide
theorem test_spelling :
    disassemble 0x00000104 = "HOTP.B32" ∧ disassemble 0x00000206 = "GETCODE.DEF" ∧
    disassemble 0x00000106 = ".word 0x00000106" ∧ assemble "TOTP.B32" = some (.totp true) := by
  decide +kernel

/-! ## The commands: vectors of spec/95_test_vectors.md -/

/-- V-SHA-2. -/
theorem test_sha1_abc : (run .sha1 (loaded (ascii "abc") [])).outBytes =
    [0xa9, 0x99, 0x3e, 0x36, 0x47, 0x06, 0x81, 0x6a, 0xba, 0x3e, 0x25, 0x71, 0x78, 0x50, 0xc2, 0x6c, 0x9c, 0xd0, 0xd8,
      0x9d] := by
  decide +kernel
/-- V-SHA-E1. -/
theorem test_sha1_length : (run .sha1 { loaded [] [] with msgLen := 4097 }).record = (4, 0, 1, 0, 0) := by decide +kernel
/-- V-HMAC-2. -/
theorem test_hmac_jefe : (run .hmac (loaded (ascii "what do ya want for nothing?") (ascii "Jefe"))).outBytes =
    [0xef, 0xfc, 0xdf, 0x6a, 0xe5, 0xeb, 0x2f, 0xa2, 0xd2, 0x74, 0x16, 0xd5, 0xf1, 0x84, 0xdf, 0x9c, 0x25, 0x9a, 0x7c,
      0x79] := by
  decide +kernel
/-- V-HMAC-E2: MSG is checked first. -/
theorem test_hmac_length : (run .hmac { loaded [] [] with msgLen := 4097, keyLen := 257 }).record = (4, 0, 1, 0, 0) := by
  decide +kernel
/-- V-B32-15. -/
theorem test_b32dec : (run .b32dec (loaded (ascii "JBSWY3DPEHPK3PXP") [])).outBytes =
    [0x48, 0x65, 0x6c, 0x6c, 0x6f, 0x21, 0xde, 0xad, 0xbe, 0xef] := by
  decide +kernel
/-- V-B32-E9. -/
theorem test_b32dec_error : (run .b32dec (loaded (ascii " =") [])).record = (1, 0, 0x013D0001, 0, 0) := by decide +kernel
/-- V-HOTP-3, program P2. -/
theorem test_hotp : (run (.hotp true) { loaded [] (ascii "JBSWY3DPEHPK3PXP") with codeLen := 6 }).record =
    (0, 0, 0, 6, 0x00045088) := by
  decide +kernel
/-- V-HOTP-E, E3. -/
theorem test_hotp_error :
    (run (.hotp true) { loaded [] (ascii "MZXW6=") with codeLen := 0 }).record = (1, 0, 0x023D0005, 0, 0) := by
  decide +kernel
/-- V-TOTP-10. -/
theorem test_totp :
    (run (.totp false) { loaded [] rawSecret with timeHi := 4, timeLo := 0xA817C800 }).outBytes = ascii "465353130" := by
  decide +kernel
/-- V-TOTP-E, E4. -/
theorem test_totp_error :
    (run (.totp false) { loaded [] rawSecret with timeStep := 0, codeLen := 0 }).record = (5, 0, 1, 0, 0) := by
  decide +kernel
/-- V-GET-1. -/
theorem test_getcode : (run (.getcode false) (asking false 59 (loaded [] textSecret))).outBytes = ascii "094287082" := by
  decide +kernel
/-- V-GET-5. -/
theorem test_getcode_caught :
    (run (.getcode false) (asking false 59 { loaded [] textSecret with epochLo := 100 })).record = (0, 5, 2, 0, 0) := by
  decide +kernel

/-- V-SHA-P2. -/
theorem test_pad_abc : pad (ascii "abc") = [0x61, 0x62, 0x63, 0x80] ++ List.replicate 52 0x00 ++
    [0, 0, 0, 0, 0, 0, 0, 0x18] := by
  decide +kernel
/-- The round trace of section 3: W[16] and W[79] of the block of "abc". -/
theorem test_schedule_abc :
    (schedule (pad (ascii "abc"))).getD 16 0 = 0xc2c4c700 ∧ (schedule (pad (ascii "abc"))).getD 79 0 = 0x822e0879 := by
  decide +kernel
/-- V-GET-12. -/
theorem test_default_secret :
    sampleParams.defaultSecret = ascii "ABCDEFGHI2345672" ∧
    Params.defaultSecret { sampleParams with frag1 := ascii "ABCDEFGHIJK", frag2 := ascii "LMNOPQR" } =
      ascii "ABCDEFGHIJK" ∧
    Params.defaultSecret { sampleParams with frag1 := ascii "QSQSQ", frag2 := ascii "SABCDEFGHIJKL" } =
      ascii "FGHIJKLQSQSABCDE" := by
  decide +kernel

/-! ## The bus: V-BUS and V-SEQ -/

/-- V-BUS-1 to V-BUS-4, V-BUS-13. -/
theorem test_bus_reset_values :
    [0x000, 0x004, 0x020, 0x024, 0x050, 0x054, 0x058, 0x010].map (fun o => (State.reset.bus (rd32 o)).answer) =
      [0x4F545031, 0x00091440, 9, 0x1E, 4096, 256, 4096, 0].map fun w => some (.word w) := by
  decide +kernel
/-- V-BUS-5 to V-BUS-8. -/
theorem test_bus_errors :
    ∀ x ∈ [rd8 0x00C, wr32 0x10002 0x12345678, rd32 0x05C, rd32 0x00100, rd32 0x0FFFC, rd32 0x11000],
      (State.reset.bus x).answer = some .error ∧ (State.reset.bus x).mem = [] ∧ (State.reset.bus x).ovr = false := by
  decide +kernel
/-- V-BUS-9, V-BUS-10. -/
theorem test_bus_lanes :
    let s := State.reset.bus (wr32 0x10000 0x61626380)
    (s.bus (rd8 0x10000)).answer = some (.byte 0x61) ∧ (s.bus (rd8 0x10003)).answer = some (.byte 0x80) ∧
    (s.buses [wr8 0x10001 0xAA, rd32 0x10000]).answer = some (.word 0x61AA6380) := by
  decide +kernel
/-- V-BUS-11, V-BUS-12, V-BUS-16. -/
theorem test_bus_read_only :
    ∀ x ∈ [wr32 0x30000 0xDEADBEEF, wr32 0x004 0, wr32 0x000 0x12345678],
      (State.reset.bus x).answer = some .okay ∧ (State.reset.bus x).mem = [] ∧ (State.reset.bus x).ovr = false := by
  decide +kernel
/-- V-BUS-14, V-BUS-15. -/
theorem test_bus_reserved_bits :
    (State.reset.buses [wr32 0x020 0xFFFFFFFF, rd32 0x020]).answer = some (.word 0x0000000F) ∧
    (State.reset.buses [wr32 0x008 0xFFFFFFFD, rd32 0x008]).answer = some (.word 0x00000001) := by
  decide +kernel
/-- V-SEQ-1: a stray zero write, and its completion. -/
theorem test_seq_illegal :
    ((orSelf State.reset (step (State.reset.bus (wr32 0x010 0)))).readReg .status,
      (orSelf State.reset (step (State.reset.bus (wr32 0x010 0)))).errInfo,
      (orSelf State.reset (step (State.reset.bus (wr32 0x010 0x401)))).errInfo) = (0x00000032, 0, 0x401) := by
  decide +kernel
/-- P5, lines 1 to 5: the interrupt and its acknowledgement. -/
theorem test_seq_irq :
    let s := orSelf State.reset (step (State.reset.buses [wr32 0x008 1, wr32 0x010 0]))
    s.readReg .status = 0x0000003A ∧ (s.buses clrDoneOp).readReg .status = 0x00000030 := by
  decide +kernel
/-- V-SEQ-3 (a), V-SEQ-4: writes while BUSY are dropped. The second word was never issued: the first one completes. -/
theorem test_seq_busy :
    let s := State.reset.buses [wr32 0x010 0x00000401, wr32 0x018 5, wr32 0x010 2]
    s.msgLen = 0 ∧ s.ovr = true ∧ (orSelf s (step s)).errInfo = 0x00000401 := by
  decide +kernel
/-- `WAIT ; CLRDONE` of 30_encoding R98: a read of STATUS while BUSY stays in the loop, one after the completion leaves it. -/
theorem test_wait :
    (hostTurn (State.reset.accept 0) (.wait :: accessOps clrDoneOp)).1 = .wait :: accessOps clrDoneOp ∧
    ((runProgram [.event .engine, .host] (.wait :: accessOps clrDoneOp) (State.reset.accept 0)).map fun r =>
      (r.1, r.2.done, r.2.answer)) = some (accessOps clrDoneOp, true, some (.word 0x00000032)) := by
  refine ⟨?_, by decide +kernel⟩
  simp [hostTurn, rd32_status, State.readBit0, State.answerRead, State.readReg_status_busy]
/-- V-SEQ-5. -/
theorem test_seq_w1c :
    let s := { State.reset with ovr := true, done := true }
    (s.bus (wr32 0x00C 4)).ovr = false ∧ (s.bus (wr32 0x00C 4)).done = true ∧ (s.bus (wr32 0x00C 0)).ovr = true := by
  decide +kernel
/-- V-SEQ-6. -/
theorem test_seq_soft_reset :
    let s := State.buses { State.reset with codeLen := 6 } (loadOp .msg [0x61, 0x62, 0x63] ++ cmdOp .sha1 ++ [wr32 0x008 3])
    s.busy = false ∧ s.done = false ∧ s.ie = false ∧ s.msgLen = 0 ∧ s.codeLen = 9 ∧ s.timeStep = 30 ∧
      s.memRead .msg 0 3 = [0x61, 0x62, 0x63] := by
  decide +kernel
/-- Log 12: a placed word is what the next step runs. -/
theorem test_fetch_word :
    (orSelf State.reset (step (State.reset.withFetchWord 32 0x00000106))).record = (3, 0, 0x00000106, 0, 0) := by
  decide +kernel

/-! ## Witnesses: the hypotheses of each statement are met together -/

theorem sampleParams_wf : sampleParams.wf = true := by decide

/-- A state in which a command word waits for the engine. -/
def waiting (w : Word) : State := (loaded (ascii "abc") (ascii "JBSWY3DP")).accept w

/-- An IDLE block, the write of a word to CMD, a dropped write to MSG_LEN, and a change of NOW, with the engine next. -/
def idleBefore : State :=
  { loaded (ascii "abc") (ascii "ME") with nowIn := 59, inputs := [.access (wr32 0x018 5), .driveNow 0, .engine, .powerOn] }

/-- The command such a word issues is still running when the engine moves next. -/
theorem running (v : Word) : ∃ t, WhileBusy (idleBefore.issue v) t ∧ t.EngineNext := by
  let a : State := (idleBefore.accept v).answerOkay
  let b : State := { a with ovr := true, inputs := [.driveNow 0, .engine, .powerOn] }
  have e1 : step a = .next b := (step_move sampleParams_wf).trans (congrArg _ (State.bus_write_reg a.pop .msgLen 5))
  have e2 : step b = .next { b with nowIn := 0, inputs := [.engine, .powerOn] } := step_move sampleParams_wf
  rw [State.issue_idle rfl]
  exact ⟨_, .tail (.tail (.refl rfl) e1 rfl) e2 rfl, .inr rfl⟩

theorem witness_StepRunsTheDecodedCommand :
    idleBefore.params.wf = true ∧ idleBefore.busy = false ∧ decode 0x00000104 = .ok (.hotp true) ∧
      ∃ t, WhileBusy (idleBefore.issue 0x00000104) t ∧ t.EngineNext :=
  ⟨sampleParams_wf, rfl, rfl, running _⟩
theorem witness_StepRunsTheDecodedCommand_busy :
    (waiting 0x00000007).params.wf = true ∧ (waiting 0x00000007).busy = true ∧ (waiting 0x00000007).EngineNext :=
  ⟨sampleParams_wf, rfl, .inl rfl⟩
theorem witness_StepRunsTheDecodedCommand_reached :
    ∃ t, State.reset.busy = false ∧ Reaches { State.reset with inputs := [.access (wr32 0x010 1)] } t ∧ t.busy = true :=
  ⟨_, rfl, .tail (.refl _) rfl, by decide +kernel⟩
theorem witness_StepRunsTheDecodedCommand_placed :
    State.reset.params.wf = true ∧ decodeTableWord 32 0x00000206 = some (.getcode true) := by decide
theorem witness_IllegalWordCompletesWithItsWord :
    idleBefore.params.wf = true ∧ idleBefore.busy = false ∧ decode 0x00000007 = .error .opReserved ∧
      ∃ t, WhileBusy (idleBefore.issue 0x00000007) t ∧ t.EngineNext :=
  ⟨sampleParams_wf, rfl, rfl, running _⟩
theorem witness_EngineTurnEndsTheCommand :
    let s := { waiting 0x00000001 with inputs := [.engine, .powerOn] }
    s.params.wf = true ∧ s.busy = true ∧ s.EngineNext :=
  ⟨sampleParams_wf, rfl, .inr rfl⟩
theorem witness_IllFormedParametersAreRefused :
    let s := { State.reset with params := { sampleParams with outBytes := 20 } }
    ¬ (64 ≤ s.params.msgBytes ∧ s.params.msgBytes ≤ 65536 ∧ s.params.msgBytes % 4 = 0 ∧
       1 ≤ s.params.keyBytes ∧ s.params.keyBytes ≤ 65536 ∧ s.params.keyBytes % 4 = 0 ∧
       s.params.msgBytes ≤ s.params.outBytes ∧ s.params.keyBytes ≤ s.params.outBytes ∧ 20 ≤ s.params.outBytes ∧
       s.params.outBytes ≤ 65536 ∧ s.params.outBytes % 4 = 0 ∧
       18 ≤ s.params.frag1.length + s.params.frag2.length) := by
  decide

/-- The state after reset meets the invariant. -/
theorem reset_inv : State.reset.Inv := by
  constructor <;> simp [State.reset]

/-- So does the same block while a command runs. -/
theorem busy_inv : (State.reset.accept 0x00000001).Inv := by
  constructor <;> simp [State.reset]

theorem witness_StepKeepsTheInvariant :
    ∃ t, (State.reset.accept 0x00000001).Inv ∧ step (State.reset.accept 0x00000001) = .next t := by
  obtain ⟨w, lg, e, i, r, h, _⟩ := exec_ending .sha1 (State.reset.accept 0x00000001)
  exact ⟨_, busy_inv, (step_turn (by decide) (.inl rfl)).trans h⟩

/-- The two ends of the range of a message's length. -/
theorem witness_Sha1GivesTheDigest :
    State.reset.msgLen.toNat ≤ State.reset.params.msgBytes ∧
      (4096 : Word).toNat ≤ { State.reset with msgLen := 4096 }.params.msgBytes := by
  decide
theorem witness_HmacGivesTheCode :
    let s := { State.reset with msgLen := 4096, keyLen := 256 }
    s.msgLen.toNat ≤ s.params.msgBytes ∧ s.keyLen.toNat ≤ s.params.keyBytes := by
  decide
theorem witness_B32decGivesTheBytes :
    let s := loaded (ascii "ME") []
    s.msgLen.toNat ≤ s.params.msgBytes ∧ base32Decode (s.memRead .msg 0 s.msgLen.toNat) 1 = .ok [0x61] := by
  decide +kernel

theorem secret_raw : (loaded [] (ascii "MZXW6=")).SecretIs false (ascii "MZXW6=") := by
  unfold State.SecretIs
  decide +kernel
theorem secret_text : (loaded [] (ascii "ME")).SecretIs true [0x61] := by
  unfold State.SecretIs
  decide +kernel
theorem text_key : (loaded [] (ascii "ME")).TextIs false (ascii "ME") 2 := by
  unfold State.TextIs
  decide +kernel
theorem text_default : (loaded [] []).TextIs true (ascii "ABCDEFGHI2345672") 3 := by
  unfold State.TextIs
  decide +kernel
theorem decode_key : base32Decode (ascii "ME") 2 = .ok [0x61] := by decide +kernel
/-- Worked out by hand from the index table of 42_base32 R140. -/
theorem decode_default : base32Decode (ascii "ABCDEFGHI2345672") 3 =
    .ok [0x00, 0x44, 0x32, 0x14, 0xC7, 0x46, 0xB7, 0xCE, 0xFB, 0xFA] := by
  decide +kernel

theorem asking_runs {s : State} (hb : s.busy = false) (d : Bool) (T : DWord) : GetcodeRuns d T (asking d T s) := by
  have e := State.issue_idle (s := { s with nowIn := T }) hb (encode (.getcode d))
  exact ⟨{ s with nowIn := T }, _, s.inputs, hb, rfl, .refl (by rw [e]; rfl), by rw [e]; rfl⟩

theorem witness_HotpGivesTheCode :
    (∃ k, { loaded [] (ascii "MZXW6=") with codeLen := 1 }.SecretIs false k ∧ (1 : BitVec 4) ≤ 1 ∧ (1 : BitVec 4) ≤ 9) ∧
    (∃ k, { loaded [] (ascii "ME") with codeLen := 9 }.SecretIs true k ∧ (1 : BitVec 4) ≤ 9 ∧ (9 : BitVec 4) ≤ 9) :=
  ⟨⟨_, secret_raw, by decide, by decide⟩, ⟨_, secret_text, by decide, by decide⟩⟩
/-- At the epoch itself, and with the largest counter. -/
theorem witness_TotpGivesTheCode :
    (∃ k, { loaded [] (ascii "ME") with epochLo := 1000, timeLo := 1000 }.SecretIs true k ∧
      { loaded [] (ascii "ME") with epochLo := 1000, timeLo := 1000 }.timeStep ≠ 0 ∧
      { loaded [] (ascii "ME") with epochLo := 1000, timeLo := 1000 }.epoch ≤
        { loaded [] (ascii "ME") with epochLo := 1000, timeLo := 1000 }.time) ∧
    (∃ k, (loaded [] (ascii "MZXW6=")).SecretIs false k ∧ (1 : Word) ≠ 0 ∧ pair 0 0 ≤ pair 0xFFFFFFFF 0xFFFFFFFF) :=
  ⟨⟨_, secret_text, by decide, by decide⟩, ⟨_, secret_raw, by decide, by decide⟩⟩
theorem witness_GetcodeGivesTheCode :
    (∃ s, GetcodeRuns false 59 s ∧ s.TextIs false (ascii "ME") 2 ∧ base32Decode (ascii "ME") 2 = .ok [0x61] ∧
      1 ≤ s.codeLen ∧ s.codeLen ≤ 9 ∧ s.timeStep ≠ 0 ∧ s.epoch ≤ 59) ∧
    (∃ s k, GetcodeRuns true 0 s ∧ s.TextIs true (ascii "ABCDEFGHI2345672") 3 ∧
      base32Decode (ascii "ABCDEFGHI2345672") 3 = .ok k ∧ 1 ≤ s.codeLen ∧ s.codeLen ≤ 9 ∧ s.timeStep ≠ 0 ∧ s.epoch ≤ 0) :=
  ⟨⟨_, asking_runs (s := loaded [] (ascii "ME")) rfl _ _, text_key, decode_key, by decide, by decide, by decide, by decide⟩,
    ⟨_, _, asking_runs (s := loaded [] []) rfl _ _, text_default, decode_default, by decide, by decide, by decide,
      by decide⟩⟩

/-- One byte past the end of each buffer. -/
theorem witness_LengthErrorsComeFirst :
    { State.reset with msgLen := 4097 }.params.msgBytes < (4097 : Word).toNat ∧
    ({ State.reset with keyLen := 257 }.params.keyBytes < (257 : Word).toNat ∧
      { State.reset with keyLen := 257 }.msgLen.toNat ≤ { State.reset with keyLen := 257 }.params.msgBytes) := by
  decide

/-- "MZXW6=" has its first invalid byte, 0x3D, at index 5 (V-B32-E1). -/
theorem first_invalid : FirstInvalid (ascii "MZXW6=") 5 0x3D := by
  refine ⟨by decide +kernel, by decide, by decide, ?_⟩
  intro j d hj h
  interval_cases j <;> (simp [ascii] at h; subst h; decide)
/-- A space is counted (V-B32-E9). -/
theorem first_invalid_after_space : FirstInvalid (ascii " =") 1 0x3D := by
  refine ⟨by decide +kernel, by decide, by decide, ?_⟩
  intro j d hj h
  interval_cases j
  simp [ascii] at h
  subst h
  decide
theorem witness_Base32ErrorNamesTheFirstInvalidByte :
    sampleParams.wf = true ∧
    FirstInvalid ((loaded (ascii "MZXW6=") []).memRead .msg 0 6) 5 0x3D ∧
    FirstInvalid ((loaded [] (ascii " =")).memRead .key 0 2) 1 0x3D ∧
    FirstInvalid (Params.defaultSecret { sampleParams with frag1 := ascii "MZXW6=GHIJK" }) 5 0x3D := by
  refine ⟨sampleParams_wf, ?_, ?_, ?_⟩
  · have : (loaded (ascii "MZXW6=") []).memRead .msg 0 6 = ascii "MZXW6=" := by decide +kernel
    rw [this]
    exact first_invalid
  · have : (loaded [] (ascii " =")).memRead .key 0 2 = ascii " =" := by decide +kernel
    rw [this]
    exact first_invalid_after_space
  · have : Params.defaultSecret { sampleParams with frag1 := ascii "MZXW6=GHIJK" } = ascii "MZXW6=GHIJK" := by
      decide +kernel
    rw [this]
    refine ⟨by decide +kernel, by decide, by decide, ?_⟩
    intro j d hj h
    interval_cases j <;> (simp [ascii] at h; subst h; decide)

theorem witness_TimeRangeErrorsComeBeforeCodeLength :
    ({ loaded [] (ascii "ME") with timeStep := 0, codeLen := 0 }.SecretIs true [0x61]) ∧
    ({ loaded [] (ascii "ME") with epochLo := 100, timeLo := 99 }.SecretIs true [0x61] ∧
      { loaded [] (ascii "ME") with epochLo := 100, timeLo := 99 }.time <
        { loaded [] (ascii "ME") with epochLo := 100, timeLo := 99 }.epoch) ∧
    (∃ s, GetcodeRuns false 99 s ∧ s.TextIs false (ascii "ME") 2 ∧ s.timeStep ≠ 0 ∧ 99 < s.epoch) :=
  ⟨secret_text, ⟨secret_text, by decide⟩,
    ⟨_, asking_runs (s := { loaded [] (ascii "ME") with epochLo := 100 }) rfl _ _, text_key, by decide, by decide⟩⟩
/-- Both sides of the range 1..9, in a legal time. -/
theorem witness_CodeLengthErrorsComeLast :
    ((0 : BitVec 4) < 1 ∧ { loaded [] (ascii "ME") with codeLen := 0 }.SecretIs true [0x61] ∧
      { loaded [] (ascii "ME") with codeLen := 0 }.timeStep ≠ 0 ∧
      { loaded [] (ascii "ME") with codeLen := 0 }.epoch ≤ { loaded [] (ascii "ME") with codeLen := 0 }.time) ∧
    (∃ s, 9 < s.codeLen ∧ s.TextIs false (ascii "ME") 2 ∧ s.timeStep ≠ 0 ∧ ∃ T, GetcodeRuns false T s ∧ s.epoch ≤ T) :=
  ⟨⟨by decide, secret_text, by decide, by decide⟩,
    ⟨asking false 0 { loaded [] (ascii "ME") with codeLen := 10 }, by decide, text_key, by decide, 0, asking_runs rfl _ _,
      by decide⟩⟩

/-- A GETCODE that catches an error, and one that gives a code. -/
theorem witness_GetcodeIsTheRecoveryBoundary :
    (∃ t, exec (.getcode false) (asking false 0 (loaded [] (ascii "1"))) = .next t ∧ t.log ≠ 0) ∧
    (∃ t, exec (.getcode false) (asking false 0 (loaded [] (ascii "ME"))) = .next t ∧ t.log = 0) :=
  ⟨⟨_, rfl, by decide +kernel⟩, ⟨_, rfl, by decide +kernel⟩⟩
theorem witness_CompletionChangesOnlyResults :
    (∀ d, Instr.sha1 ≠ .getcode d) ∧ (loaded [] []).params.wf = true ∧
      ∃ t, exec .sha1 { loaded [] [] with msgLen := 4097 } = .next t ∧ t.err ≠ 0 :=
  ⟨(fun _ h => nomatch h), sampleParams_wf, _, rfl, by decide +kernel⟩

/-- Two states that differ in everything a command does not read, the one running GETCODE at the same time as the other. -/
theorem witness_ResultsDependOnOperandsAlone :
    let s := loaded (ascii "abc") []
    let s' := { s with err := 5, log := 2, code := 7, ovr := true, ie := true, outDraw := 9 }
    (s.params.wf = true ∧ AgreeOnOperands s s' ∧ ∃ t t', exec .sha1 s = .next t ∧ exec .sha1 s' = .next t') ∧
    (AgreeOnOperands (asking true 59 s) (asking true 59 s') ∧ GetcodeRuns true 59 (asking true 59 s) ∧
      GetcodeRuns true 59 (asking true 59 s') ∧
      ∃ t t', exec (.getcode true) (asking true 59 s) = .next t ∧ exec (.getcode true) (asking true 59 s') = .next t') := by
  refine ⟨⟨sampleParams_wf, ⟨rfl, rfl, rfl, rfl, rfl, rfl, rfl, rfl, ?_⟩, _, _, rfl, rfl⟩,
    ⟨⟨rfl, rfl, rfl, rfl, rfl, rfl, rfl, rfl, ?_⟩, asking_runs rfl _ _, asking_runs rfl _ _, _, _, rfl, rfl⟩⟩ <;>
    (intro a h; simp [State.byteAt, State.drawOf, h, asking, State.accept, State.answerOkay])
/-- L1-7: T = 0 and T = 29, and the windows' ends 30 and 59. -/
theorem witness_SameWindowGivesTheSameCode :
    (let s := { loaded [] rawSecret with timeLo := 0 }
     s.timeStep ≠ 0 ∧ s.epoch ≤ s.time ∧ s.epoch ≤ pair 0 29 ∧
     (s.time.toNat - s.epoch.toNat) / s.timeStep.toNat = ((pair 0 29).toNat - s.epoch.toNat) / s.timeStep.toNat) ∧
    (∃ s s', s.params.wf = true ∧ AgreeOnOperands s s' ∧ GetcodeRuns false 30 s ∧ GetcodeRuns false 59 s' ∧
     s.timeStep ≠ 0 ∧ s.epoch ≤ 30 ∧ s.epoch ≤ 59 ∧
     ((30 : DWord).toNat - s.epoch.toNat) / s.timeStep.toNat = ((59 : DWord).toNat - s.epoch.toNat) / s.timeStep.toNat) :=
  ⟨by decide, asking false 30 (loaded [] textSecret), asking false 59 (loaded [] textSecret), sampleParams_wf,
    ⟨rfl, rfl, rfl, rfl, rfl, rfl, rfl, rfl, fun _ _ => rfl⟩, asking_runs rfl _ _, asking_runs rfl _ _, by decide,
    by decide, by decide, by decide⟩

theorem witness_RotationLosesNoBit : 1 ≤ 1 ∧ 1 ≤ 31 ∧ 1 ≤ 31 ∧ 31 ≤ 31 ∧ 0 < 32 ∧ 31 < 32 := by decide
theorem witness_HmacKeysAreZeroPaddedOrHashed :
    (List.replicate 20 (0x0b : Byte)).length + 44 ≤ 64 ∧ 64 < (List.replicate 65 (0xaa : Byte)).length := by decide
theorem witness_Base32RegroupsTheSymbolsBits : base32Decode (ascii "ME") 1 = .ok [0x61] := by decide +kernel
theorem witness_Base32FailsAtTheFirstInvalidByte : ∃ i c, FirstInvalid (ascii "MZXW6=") i c := ⟨5, 0x3D, first_invalid⟩
theorem witness_Base32FoldsCaseAndSkipsSpaces :
    base32Decode (ascii "MZ XW 6Y TB OI") 1 = .ok [0x66, 0x6f, 0x6f, 0x62, 0x61, 0x72] := by decide +kernel
theorem witness_DecimalIsTheCodesDigits :
    (0 < 10 ^ 1 ∧ 1 ≤ 1 ∧ 1 ≤ 9) ∧ (999999999 < 10 ^ 9 ∧ 1 ≤ 9 ∧ 9 ≤ 9 ∧ 0 < 9 ∧ 8 < 9) := by decide
theorem witness_HotpCodesHaveTheirLength :
    (∃ r, hotp [] 0 9 = .ok r) ∧ ((0 : BitVec 4) < 1 ∧ (9 : BitVec 4) < 10) ∧
      (List.replicate 20 (0xff : Byte)).length = 20 :=
  ⟨⟨_, hotp_eq (by decide) (by decide)⟩, by decide, by decide⟩
theorem witness_TotpCounterIsTheFloor :
    (0 : Word) = 0 ∧ ((1 : Word) ≠ 0 ∧ (99 : DWord) < 100) ∧ ((0xFFFFFFFF : Word) ≠ 0 ∧ (100 : DWord) ≤ 100) := by decide
theorem witness_AdjacentWindowsDifferByOne :
    (29 : DWord).toNat + (30 : Word).toNat < 2 ^ 64 ∧ totpCounter 29 0 30 = .ok 0 := ⟨by decide, by rfl⟩
theorem witness_WholeSecondsLoseNothing :
    (((0 : DWord).toNat : ℝ) ≤ 59.5) ∧ (59.5 : ℝ) < 2 ^ 64 ∧ (30 : Word) ≠ 0 := ⟨by norm_num, by norm_num, by decide⟩
/-- V-GET-12: "QS" at index 9, the last place it can have, and none at all. -/
theorem witness_DefaultSecretReplacesTheFirstQS :
    (18 ≤ (ascii "ABCDEFGHIQS2345672").length ∧ (ascii "ABCDEFGHIQS")[9]? = some 0x51 ∧
      (ascii "ABCDEFGHIQS")[9 + 1]? = some 0x53 ∧
      ∀ j, j < 9 → ¬ ((ascii "ABCDEFGHIQS")[j]? = some 0x51 ∧ (ascii "ABCDEFGHIQS")[j + 1]? = some 0x53)) ∧
    (∀ j, j ≤ 9 → ¬ ((ascii "ABCDEFGHIJK")[j]? = some 0x51 ∧ (ascii "ABCDEFGHIJK")[j + 1]? = some 0x53)) := by
  decide +kernel

/-- A state that is IDLE, and one that is BUSY. -/
theorem witness_registers_and_accesses :
    State.reset.params.wf = true ∧ State.reset.busy = false ∧ State.reset.ovr = false ∧
      (waiting 0x00000001).params.wf = true ∧ (waiting 0x00000001).busy = true :=
  ⟨by decide, rfl, rfl, sampleParams_wf, rfl⟩
theorem witness_InputRegistersReadBack :
    State.reset.busy = false ∧ (0xFFFFFFFD : Word).getLsbD 1 = false ∧ Reg.cntHi ∈ [Reg.msgLen, .cntHi] ∧
      Reg.outSize ∈ Reg.readOnly := by
  decide
theorem witness_StatusIsWriteOneToClear :
    (State.reset.accept 0x00000001).Inv ∧ (State.reset.accept 0x00000001).busy = true := ⟨busy_inv, rfl⟩
theorem witness_AcceptanceLatchesAnyWord :
    State.reset.busy = false ∧ decode 0x00000106 = .error .b32NotTaken ∧ decode 0x00000206 = .ok (.getcode true) :=
  ⟨rfl, rfl, rfl⟩
theorem witness_BusyWritesAreDropped :
    let p := (waiting 0x00000001).params
    (wr32 0x03C 1).target p = .reg .cntHi ∧ Reg.cntHi ∈ Reg.frozen ∧
    (wr8 0x10FFF 1).target p = .byte .msg 0xFFF ∧ (wr32 0x200FC 1).target p = .word .key 0xFC ∧
    (wr32 0x30000 1).target p = .word .out 0 ∧ (wr32 0x058 1).target p = .reg .outSize ∧
    ((wr32 0x008 1).target p = .reg .ctrl ∧ (1 : Word).getLsbD 1 = false) ∧ (wr32 0x00C 6).target p = .reg .status := by
  decide +kernel
theorem witness_OperandsCannotChangeWhileBusy :
    let s := { waiting 0x00000001 with inputs := [.access (wr32 0x018 5)] }
    s.busy = true ∧ ∃ t, step s = .next t ∧ t.busy = true :=
  ⟨rfl, _, rfl, by decide +kernel⟩
/-- The last register, the last byte and the last word of a buffer; and the accesses just past them. -/
theorem witness_IllegalAccessesChangeNothing :
    (rd32 0x058).Legal sampleParams ∧ ¬ (rd32 0x05C).Legal sampleParams ∧
    (rd8 0x200FF).Legal sampleParams ∧ ¬ (rd8 0x20100).Legal sampleParams ∧
    (rd32 0x200FC).Legal sampleParams ∧ ¬ (rd32 0x200FD).Legal sampleParams := by
  have no : ∀ x ∈ [rd32 0x05C, rd8 0x20100, rd32 0x200FD], ¬ x.Legal sampleParams := by
    intro x hx
    simp only [List.mem_cons, List.not_mem_nil, or_false] at hx
    rintro (h | ⟨b, h, h' | h'⟩)
    · revert h; rcases hx with rfl | rfl | rfl <;> decide
    · revert h h'; rcases hx with rfl | rfl | rfl <;> cases b <;> decide
    · revert h h'; rcases hx with rfl | rfl | rfl <;> cases b <;> decide
  exact ⟨.inl (by decide), no _ (by simp), .inr ⟨.key, by decide, .inl (by decide)⟩, no _ (by simp),
    .inr ⟨.key, by decide, .inr (by decide)⟩, no _ (by simp)⟩
theorem witness_BufferWritesAreBigEndian :
    (Buf.msg ≠ .out ∧ 4092 % 4 = 0 ∧ 4092 + 4 ≤ Buf.msg.size sampleParams) ∧
    (Buf.key ≠ .out ∧ 255 < Buf.key.size sampleParams) := by
  decide
theorem witness_OutReadsAsTheDigestWords :
    let s := loaded (ascii "abc") []
    s.params.wf = true ∧ s.msgLen.toNat ≤ s.params.msgBytes ∧ ∃ t, exec .sha1 s = .next t :=
  ⟨sampleParams_wf, by decide, _, rfl⟩
theorem witness_ReadsHaveNoSideEffect : (rd32 0x30000).dir = .read ∧ State.reset.busy = false := by decide
/-- The last byte and the last word of KEY, while BUSY. -/
theorem witness_BusyReadsOfInputsAreExact :
    (waiting 0x00000001).busy = true ∧ (waiting 0x00000001).params.wf = true ∧ Buf.key ≠ .out ∧
      255 < Buf.key.size (waiting 0x00000001).params ∧ 252 % 4 = 0 ∧ 252 + 4 ≤ Buf.key.size (waiting 0x00000001).params :=
  ⟨rfl, sampleParams_wf, by decide, by decide, by decide, by decide⟩
theorem witness_LoadAndSet64DoWhatTheySay :
    State.reset.params.wf = true ∧ State.reset.busy = false ∧
      (List.replicate 4096 (0x61 : Byte)).length ≤ State.reset.params.msgBytes ∧
      (List.replicate 256 (0x61 : Byte)).length ≤ State.reset.params.keyBytes := by
  refine ⟨by decide, rfl, ?_, ?_⟩ <;> (rw [List.length_replicate]; decide)
theorem witness_SoftResetKeepsOnlyMsgAndKey : (0x00000003 : Word).getLsbD 1 = true := by decide
theorem witness_PowerOnResetsEverything :
    let s := { waiting 0x00000001 with inputs := [.powerOn] }
    s.params.wf = true ∧ s.inputs.head? = some .powerOn := ⟨sampleParams_wf, rfl⟩
/-- IRQ rises with a completion when IE = 1, and with IE when DONE = 1. -/
theorem witness_IrqFollowsDoneAndEnable :
    (∃ t, step { (State.reset.accept 0) with ie := true } = .next t ∧ t.irq = true ∧
      { (State.reset.accept 0) with ie := true }.irq = false) ∧
    (∃ t, step { State.reset with done := true, inputs := [.access (wr32 0x008 1)] } = .next t ∧ t.irq = true ∧
      { State.reset with done := true, inputs := [.access (wr32 0x008 1)] }.irq = false) := by
  refine ⟨⟨_, (step_turn (by decide) (.inl rfl)).trans (State.engineTurn_busy rfl), by rfl, by rfl⟩, ?_⟩
  exact ⟨_, rfl, by decide +kernel, by rfl⟩
/-- Acceptance raises BUSY and clears DONE, and an illegal word's completion changes ERR. -/
theorem witness_FlagsChangeOnlyAsTabled :
    (∃ t, step { State.reset with done := true, inputs := [.access (wr32 0x010 1)] } = .next t ∧ t.busy = true ∧
      t.done = false) ∧
    (∃ t, step { State.reset with ovr := true, inputs := [.access (wr32 0x00C 4)] } = .next t ∧ t.ovr = false) ∧
    (∃ t, step { waiting 1 with inputs := [.access (wr32 0x018 4)] } = .next t ∧ t.ovr = true) ∧
    (∃ t, step (State.reset.accept 0) = .next t ∧ t.busy = false ∧ t.done = true ∧ t.err ≠ (State.reset.accept 0).err) ∧
    (∃ t, step (asking false 0 (loaded [] (ascii "1"))) = .next t ∧ t.log ≠ (asking false 0 (loaded [] (ascii "1"))).log) :=
  ⟨⟨_, rfl, by decide +kernel, by decide +kernel⟩, ⟨_, rfl, by decide +kernel⟩, ⟨_, rfl, by decide +kernel⟩,
    ⟨_, rfl, by decide +kernel, by decide +kernel, by decide +kernel⟩, ⟨_, rfl, by decide +kernel⟩⟩
theorem witness_StoredBytesAndResultsStand :
    (let s := { loaded (ascii "abc") [] with inputs := [.access (wr8 0x10000 0x7A)] }
     s.busy = false ∧ ∃ t, step s = .next t ∧ t.byteAt 0x10000 ≠ s.byteAt 0x10000) ∧
    (let s := { waiting 1 with inputs := [.access (rd32 0x00C)] }
     ¬ s.EngineNext ∧ s.inputs.head? ≠ some .powerOn ∧ ∃ t, step s = .next t) := by
  refine ⟨⟨rfl, _, rfl, by decide +kernel⟩, ⟨?_, by decide, _, rfl⟩⟩
  rintro (h | h) <;> cases h
theorem witness_RacingWriteHasTwoOutcomes :
    State.reset.params.wf = true ∧ State.reset.busy = false ∧ State.reset.ovr = false := by decide
/-- At both sides of the epoch: NOW is 59 when the word is accepted, and 0 when the command completes. -/
theorem witness_GetcodeUsesTheTimeOfItsAcceptance :
    idleBefore.params.wf = true ∧ idleBefore.busy = false ∧ idleBefore.TextIs false (ascii "ME") 2 ∧
      base32Decode (ascii "ME") 2 = .ok [0x61] ∧ idleBefore.timeStep ≠ 0 ∧
      (∃ t, WhileBusy (idleBefore.issue (encode (.getcode false))) t ∧ t.EngineNext) ∧
      1 ≤ idleBefore.codeLen ∧ idleBefore.codeLen ≤ 9 ∧ idleBefore.epoch ≤ idleBefore.nowIn ∧
      { idleBefore with epochLo := 60 }.nowIn < { idleBefore with epochLo := 60 }.epoch :=
  ⟨sampleParams_wf, rfl, text_key, decode_key, by decide, running _, by decide, by decide, by decide, by decide⟩
theorem witness_WaitPollsUntilBusyReadsZero : (waiting 0x00000001).params.wf = true ∧ (waiting 0x00000001).busy = true :=
  ⟨sampleParams_wf, rfl⟩
theorem witness_ResultRegistersReadTheResults : { State.reset with outLen := 20, code := 7 }.busy = false := rfl

end Sys2Proof.Machine
end

/-! PROOF. The statements of 00_scope: which parameter sets are refused (R8, R9), what `rotl32` does to each bit (R12),
and that a command's results depend on its operands alone (R15). -/

namespace Sys2Proof

/-! ## The ranges of the parameters -/

theorem sizeInRange_iff {lo v : Nat} : sizeInRange lo v = true ↔ lo ≤ v ∧ v ≤ 65536 ∧ v % 4 = 0 := by
  simp [sizeInRange, and_assoc]

/-- The checks of R8 and R166 as ranges. -/
theorem Params.wf_iff {p : Params} :
    p.wf = true ↔
      (64 ≤ p.msgBytes ∧ p.msgBytes ≤ 65536 ∧ p.msgBytes % 4 = 0) ∧
      (1 ≤ p.keyBytes ∧ p.keyBytes ≤ 65536 ∧ p.keyBytes % 4 = 0) ∧
      ((p.msgBytes ≤ p.outBytes ∧ p.keyBytes ≤ p.outBytes ∧ 20 ≤ p.outBytes) ∧
        p.outBytes ≤ 65536 ∧ p.outBytes % 4 = 0) ∧
      18 ≤ p.frag1.length + p.frag2.length := by
  simp only [Params.wf, Bool.and_eq_true, sizeInRange_iff, Nat.max_le, decide_eq_true_eq, List.length_append,
    and_assoc]

end Sys2Proof

namespace Sys2Proof.Machine

/-- A parameter set that fails the checks stops the step (log 3). -/
theorem step_refused {s : State} (hw : ¬ s.params.wf = true) : step s = .refused .badParameters := by
  have h := step_answers s
  rwa [if_neg hw] at h

/-- Settles O8: the ranges are what the checks of `step` amount to. -/
theorem illFormedParametersAreRefused : Obligations.IllFormedParametersAreRefused := by
  intro s hbad
  refine step_refused fun hw => hbad ?_
  obtain ⟨⟨hm, hm', hm4⟩, ⟨hk, hk', hk4⟩, ⟨⟨hom, hok, ho⟩, ho', ho4⟩, hf⟩ := Params.wf_iff.1 hw
  exact ⟨hm, hm', hm4, hk, hk', hk4, hom, hok, ho, ho', ho4, hf⟩

/-! ## Rotation -/

/-- The model's rotation is the library's. -/
theorem rotl32_eq_rotateLeft (x : Word) {n : Nat} (h : n < 32) : rotl32 x n = x.rotateLeft n := by
  simp only [rotl32, BitVec.rotateLeft, BitVec.rotateLeftAux, Nat.mod_eq_of_lt h]

/-- Settles O27: a bit either moves up by `n` or wraps round to the bits below `n`. -/
theorem rotationLosesNoBit : Obligations.RotationLosesNoBit := by
  intro x n i _ hn hi
  have hn32 : n < 32 := by omega
  rw [rotl32_eq_rotateLeft x hn32, BitVec.getLsbD_rotateLeft, Nat.mod_eq_of_lt hn32]
  by_cases hwrap : i + n < 32
  · have hplace : (i + n) % 32 = i + n := Nat.mod_eq_of_lt hwrap
    simp [hplace, hwrap]
  · have hlow : (i + n) % 32 < n := by omega
    have hsource : 32 - n + (i + n) % 32 = i := by omega
    simp [hlow, hsource]

/-! ## Operands that agree -/

/-- What fits MSG or KEY lies below OUT (20_memory R61). -/
theorem Buf.base_add_le_out {p : Params} (hw : p.wf = true) {b : Buf} (hb : b ≠ .out) {n : Nat} (hn : n ≤ b.size p) :
    b.base + n ≤ Buf.out.base := by
  have hsize := Buf.size_le hw b
  cases b with
  | msg => simp only [Buf.base]; omega
  | key => simp only [Buf.base]; omega
  | out => exact absurd rfl hb

section Agreement

variable {s s' : State} (h : AgreeOnOperands s s') (hw : s.params.wf = true)
include h hw

/-- Bytes of MSG and KEY read the same. -/
theorem AgreeOnOperands.memRead_eq {b : Buf} (hb : b ≠ .out) {n : Nat} (hn : n ≤ b.size s.params) :
    s'.memRead b 0 n = s.memRead b 0 n := by
  have hbelow := Buf.base_add_le_out hw hb hn
  refine List.map_congr_left fun i hi => h.buffers _ ?_
  have hin : i < n := List.mem_range.1 hi
  omega

/-- The message is the same, or its length is the same error. -/
theorem AgreeOnOperands.message_eq : s'.message = s.message := by
  rcases Nat.lt_or_ge s.params.msgBytes s.msgLen.toNat with hl | hl
  · rw [State.message_length hl, State.message_length (by rwa [h.msgLen, h.params])]
  · rw [State.message_eq hl, State.message_eq (by rwa [h.msgLen, h.params]), h.msgLen,
      h.memRead_eq hw (b := .msg) nofun hl]

/-- The bytes of the key are the same, or their length is the same error. -/
theorem AgreeOnOperands.keyBytes_eq : s'.keyBytes = s.keyBytes := by
  rcases Nat.lt_or_ge s.params.keyBytes s.keyLen.toNat with hl | hl
  · rw [State.keyBytes_length hl, State.keyBytes_length (by rwa [h.keyLen, h.params])]
  · rw [State.keyBytes_eq hl, State.keyBytes_eq (by rwa [h.keyLen, h.params]), h.keyLen,
      h.memRead_eq hw (b := .key) nofun hl]

theorem AgreeOnOperands.resolveSecret_eq (b32 : Bool) : s'.resolveSecret b32 = s.resolveSecret b32 := by
  simp only [State.resolveSecret, h.keyBytes_eq hw]

theorem AgreeOnOperands.getcodeText_eq (d : Bool) : s'.getcodeText d = s.getcodeText d := by
  simp only [State.getcodeText, h.keyBytes_eq hw, h.params]

/-! ## The commands' bodies read their operands alone -/

theorem AgreeOnOperands.sha1Body_eq : s'.sha1Body = s.sha1Body := by
  simp only [State.sha1Body, h.message_eq hw]

theorem AgreeOnOperands.hmacBody_eq : s'.hmacBody = s.hmacBody := by
  simp only [State.hmacBody, h.message_eq hw, h.keyBytes_eq hw]

theorem AgreeOnOperands.b32decBody_eq : s'.b32decBody = s.b32decBody := by
  simp only [State.b32decBody, h.message_eq hw]

theorem AgreeOnOperands.hotpBody_eq (b32 : Bool) : s'.hotpBody b32 = s.hotpBody b32 := by
  simp only [State.hotpBody, h.resolveSecret_eq hw, h.counter, h.codeLen]

theorem AgreeOnOperands.totpBody_eq (b32 : Bool) : s'.totpBody b32 = s.totpBody b32 := by
  simp only [State.totpBody, h.resolveSecret_eq hw, h.time, h.epoch, h.timeStep, h.codeLen]

/-- GETCODE's body reads the sampled time besides. -/
theorem AgreeOnOperands.getcodeBody_eq (hnow : s'.now = s.now) (d : Bool) : s'.getcodeBody d = s.getcodeBody d := by
  simp only [State.getcodeBody, h.getcodeText_eq hw, hnow, h.epoch, h.timeStep, h.codeLen]

end Agreement

/-! ## Completions with one result -/

/-- Two completion records with the same contents show the same results: OUT_LEN, 32 bits wide, counts all of `out`. -/
theorem finish_sameResults (s s' : State) (e : BitVec 4) (info : Word) (out : List Byte) (code : Word) (lcnt : DWord)
    (hlen : out.length < 2 ^ 32) :
    SameResults (s.finish e info out code lcnt) (s'.finish e info out code lcnt) where
  err := rfl
  errInfo := rfl
  outLen := rfl
  code := rfl
  lcnt := rfl
  out := by
    have hcount : (BitVec.ofNat 32 out.length).toNat = out.length := by
      rw [BitVec.toNat_ofNat, Nat.mod_eq_of_lt hlen]
    simp only [State.finish_outLen, hcount, State.memRead_finish]

/-- OUT_LEN can count the bytes of a result that fits (00_scope R8, R9). -/
theorem Result.Fits.out_length_lt {p : Params} {r : Result} (hr : r.Fits p) (hw : p.wf = true) :
    r.out.length < 2 ^ 32 := by
  have hout : r.out.length ≤ p.outBytes := hr.out_le hw
  have hsize : p.outBytes ≤ 65536 := Buf.size_le hw .out
  omega

/-- Commands that report their errors: equal outcomes of the bodies show equal results. -/
theorem conclude_sameResults {s s' : State} {p : Params} {x x' : Except CmdError Result} (hw : p.wf = true)
    (hfits : ∀ r, x = .ok r → r.Fits p) (hx : x' = x) : SameResults (s.conclude x) (s'.conclude x') := by
  subst hx
  cases x' with
  | ok r => exact finish_sameResults _ _ _ _ _ _ _ ((hfits r rfl).out_length_lt hw)
  | error e => exact finish_sameResults _ _ _ _ _ _ _ (by decide)

/-- GETCODE: equal outcomes of the body show equal results, and equal LOG. -/
theorem concludeCaught_sameResults {s s' : State} {p : Params} {x x' : Except CmdError Result} (hw : p.wf = true)
    (hfits : ∀ r, x = .ok r → r.Fits p) (hx : x' = x) :
    SameResults (s.concludeCaught x) (s'.concludeCaught x') ∧
      (s'.concludeCaught x').log = (s.concludeCaught x).log := by
  subst hx
  cases x' with
  | ok r => exact ⟨finish_sameResults _ _ _ _ _ _ _ ((hfits r rfl).out_length_lt hw), rfl⟩
  | error e => exact ⟨finish_sameResults _ _ _ _ _ _ _ (by decide), rfl⟩

/-- Settles O23: each command's body reads operands alone, and its outcome is all that the completion shows. -/
theorem resultsDependOnOperandsAlone : Obligations.ResultsDependOnOperandsAlone := by
  intro i s s' t t' hw h hruns ht ht'
  cases i with
  | sha1 =>
    cases ht; cases ht'
    exact ⟨conclude_sameResults hw (fun _ => State.sha1Body_fits) (h.sha1Body_eq hw), nofun⟩
  | hmac =>
    cases ht; cases ht'
    exact ⟨conclude_sameResults hw (fun _ => State.hmacBody_fits) (h.hmacBody_eq hw), nofun⟩
  | b32dec =>
    cases ht; cases ht'
    exact ⟨conclude_sameResults hw (fun _ => State.b32decBody_fits) (h.b32decBody_eq hw), nofun⟩
  | hotp b32 =>
    cases ht; cases ht'
    exact ⟨conclude_sameResults hw (fun _ => State.hotpBody_fits) (h.hotpBody_eq hw b32), nofun⟩
  | totp b32 =>
    cases ht; cases ht'
    exact ⟨conclude_sameResults hw (fun _ => State.totpBody_fits) (h.totpBody_eq hw b32), nofun⟩
  | getcode d =>
    obtain ⟨T, hT, hT'⟩ := hruns d rfl
    have hnow : s'.now = s.now := hT'.now_eq.trans hT.now_eq.symm
    cases ht; cases ht'
    obtain ⟨hres, hlog⟩ := concludeCaught_sameResults hw (fun _ => State.getcodeBody_fits) (h.getcodeBody_eq hw hnow d)
    exact ⟨hres, fun _ _ => hlog⟩

end Sys2Proof.Machine

/-! PROOF. The statements of 10_state: what each register reads, what a host's write to it does (R20 to R39, R41), and
which events write the flags of STATUS (R43). -/

namespace Sys2Proof.Machine

/-! ## What the registers read -/

@[simp] theorem State.readReg_id (s : State) : s.readReg .id = 0x4F545031 := rfl
@[simp] theorem State.readReg_caps (s : State) : s.readReg .caps = 0x00091440 := rfl

/-- Settles O38: no field of the state but the parameters plays a part. -/
theorem constantRegistersReadTheirConstants : Obligations.ConstantRegistersReadTheirConstants := by
  intro s
  rw [State.readReg_id, State.readReg_caps]
  exact ⟨rfl, rfl, by decide, by decide, by decide, by decide, rfl, rfl, rfl⟩

theorem Reg.mem_all (r : Reg) : r ∈ Reg.all := by cases r <;> decide

/-- The rows of the register table (10_state R20), from the model's offset of each register. -/
def Reg.rows : List (BitVec 18 × Reg) := Reg.all.map fun r => (BitVec.ofNat 18 r.offset, r)

theorem Reg.mem_rows {e : BitVec 18 × Reg} : e ∈ Reg.rows ↔ e.1 = BitVec.ofNat 18 e.2.offset := by
  obtain ⟨a, r⟩ := e
  simp only [Reg.rows, List.mem_map, Prod.mk.injEq]
  constructor
  · rintro ⟨r, -, rfl, rfl⟩; rfl
  · rintro rfl; exact ⟨r, r.mem_all, rfl, rfl⟩

/-- Settles O39: the rows are the model's offsets, where an access names the register. -/
theorem registersAreAtTheirOffsets : Obligations.RegistersAreAtTheirOffsets := by
  refine ⟨Reg.rows, rfl, fun r => ⟨BitVec.ofNat 18 r.offset, Reg.mem_rows.2 rfl⟩, fun e he s v => ?_⟩
  rw [Reg.mem_rows.1 he, State.bus_read_reg, State.bus_write_reg]
  exact ⟨rfl, rfl⟩

/-- Whatever ERR and LOG it shows, bits 31..12 of a STATUS word are 0 (10_state R26). -/
theorem State.statusWord_reserved (s : State) (e l : BitVec 4) : (s.statusWord e l).extractLsb' 12 20 = 0 := by
  apply BitVec.eq_of_getLsbD_eq
  intro i hi
  simp only [State.statusWord, BitVec.getLsbD_extractLsb', BitVec.getLsbD_append]
  have herr : ¬ 8 + i < 4 := by omega
  have hlog : ¬ 8 + i - 4 < 4 := by omega
  simp [Nat.sub_sub, herr, hlog]

/-- A read of STATUS shows some ERR and LOG, and while IDLE its own (20_memory R71). -/
theorem State.readReg_status (s : State) :
    ∃ e l, s.readReg .status = s.statusWord e l ∧ (s.busy = false → e = s.err ∧ l = s.log) := by
  simp only [State.readReg]
  split
  · rename_i hb; exact ⟨_, _, rfl, fun h => absurd (hb.symm.trans h) (by decide)⟩
  · exact ⟨_, _, rfl, fun _ => ⟨rfl, rfl⟩⟩

/-- Settles O40: the read is a STATUS word, whose fields are known. -/
theorem statusReadsItsFields : Obligations.StatusReadsItsFields := by
  intro s
  obtain ⟨e, l, hread, hidle⟩ := s.readReg_status
  obtain ⟨hbusy, hdone, hovr, hirq, herr, hlog⟩ := s.statusWord_fields e l
  rw [hread]
  refine ⟨hbusy, hdone, hovr, hirq, s.statusWord_reserved e l, fun hb => ?_⟩
  obtain ⟨rfl, rfl⟩ := hidle hb
  exact ⟨herr, hlog⟩

theorem State.resultRead_idle {s : State} (hb : s.busy = false) (v : Word) : s.resultRead v = v := by
  simp [State.resultRead, hb]

/-- Settles O60: while IDLE a result register is read as it stands. -/
theorem resultRegistersReadTheResults : Obligations.ResultRegistersReadTheResults := by
  intro s hb
  have hread := State.resultRead_idle hb
  exact ⟨hread _, hread _, hread _, hread _, hread _, congrArg₂ _ (hread _) (hread _)⟩

/-! ## What a host's write to a register does -/

theorem State.ifIdle_idle {s : State} (hb : s.busy = false) (w : State) : s.ifIdle w = w := by
  simp [State.ifIdle, hb]

/-- A write to a read-only register changes nothing, BUSY or not (10_state R20, 20_memory R70). -/
theorem State.writeReg_readOnly (s : State) (v : Word) : ∀ r ∈ Reg.readOnly, s.writeReg r v = s := by
  simp [Reg.readOnly, State.writeReg]

/-- A write to CTRL without SRST sets IE alone (10_state R25). -/
theorem State.writeCtrl_ie (s : State) {v : Word} (hv : v.getLsbD 1 = false) :
    s.writeCtrl v = { s with ie := v.getLsbD 0 } := by
  unfold State.writeCtrl
  rw [if_neg (by simp only [hv, Bool.false_eq_true, not_false_eq_true])]

/-- CFG's four bits, read as a word. -/
theorem setWidth_low_nibble (v : Word) : (v.extractLsb' 0 4).setWidth 32 = v &&& 0x0000000F := by
  apply BitVec.eq_of_toNat_eq
  have hmask : v.toNat &&& 15 = v.toNat % 2 ^ 4 := Nat.and_two_pow_sub_one_eq_mod v.toNat 4
  simp [BitVec.toNat_and, hmask]
  omega

/-- CTRL's one bit, read as a word. -/
theorem setWidth_low_bit (v : Word) : (BitVec.ofBool (v.getLsbD 0)).setWidth 32 = v &&& 0x00000001 := by
  apply BitVec.eq_of_getLsbD_eq
  intro i hi
  cases i with
  | zero => simp
  | succ i => simp

/-- Settles O41: while IDLE each write is one field's update, and the read of that register shows the field. -/
theorem inputRegistersReadBack : Obligations.InputRegistersReadBack := by
  intro s v hb
  have hidle : ∀ w, s.ifIdle w = w := State.ifIdle_idle hb
  have hcfg : s.writeReg .cfg v = { s with codeLen := v.extractLsb' 0 4 } := hidle _
  refine ⟨?_, hidle _, hidle _, hidle _, hidle _, hidle _, hidle _, hidle _, hidle _, hidle _, ?_, hcfg, fun hv => ?_,
    rfl, s.writeReg_readOnly v⟩
  · simp [State.writeReg, hidle, State.readReg]
  · rw [hcfg]
    exact setWidth_low_nibble v
  · have hctrl : s.writeReg .ctrl v = { s with ie := v.getLsbD 0 } := s.writeCtrl_ie hv
    rw [hctrl]
    exact ⟨setWidth_low_bit v, rfl⟩

/-- An acknowledgement masks DONE and OVR with the bits not written 1 (10_state R27). -/
theorem State.ackStatus_eq (s : State) (v : Word) :
    s.ackStatus v = { s with done := s.done && !(v.getLsbD 1), ovr := s.ovr && !(v.getLsbD 2) } := by
  unfold State.ackStatus
  cases v.getLsbD 1 <;> cases v.getLsbD 2 <;> simp

/-- Settles O42: the write is the acknowledgement, and while BUSY the invariant has DONE at 0. -/
theorem statusIsWriteOneToClear : Obligations.StatusIsWriteOneToClear := by
  intro s v
  have hbus : s.bus ⟨.write v, 0x00C, 4⟩ = (s.ackStatus v).answerOkay := s.bus_write_reg .status v
  rw [hbus, s.ackStatus_eq v]
  refine ⟨rfl, fun hinv hb => ?_⟩
  have hdone := hinv.busy_done hb
  exact ⟨hdone, by simp [hdone]⟩

/-! ## Which events write the flags -/

/-- BUSY, DONE, OVR, ERR and LOG stand. -/
structure SameFlags (s t : State) : Prop where
  busy : t.busy = s.busy
  done : t.done = s.done
  ovr : t.ovr = s.ovr
  err : t.err = s.err
  log : t.log = s.log

/-- A write that leaves the flags alone while IDLE is dropped while BUSY (20_memory R70). -/
theorem State.ifIdle_flags (s w : State) (hw : SameFlags s w) :
    SameFlags s (s.ifIdle w) ∨ (s.busy = true ∧ s.ifIdle w = s.dropWrite) := by
  rcases s.ifIdle_cases w with ⟨_, h⟩ | h
  · exact .inl (by rw [h]; exact hw)
  · exact .inr h

/-- A write to a register leaves the flags alone or is dropped, but for CMD's acceptance, STATUS's acknowledgement and
CTRL's soft reset (10_state R43). -/
theorem State.writeReg_flags (s : State) (r : Reg) (v : Word) :
    SameFlags s (s.writeReg r v) ∨
    (s.busy = true ∧ s.writeReg r v = s.dropWrite) ∨
    (r = .cmd ∧ s.busy = false ∧ s.writeReg r v = s.accept v) ∨
    (r = .status ∧ s.writeReg r v = s.ackStatus v) ∨
    (r = .ctrl ∧ v.getLsbD 1 = true ∧ s.writeReg r v = s.softReset) := by
  cases r with
  | cmd =>
    rcases s.ifIdle_cases (s.accept v) with ⟨hb, h⟩ | h
    · exact .inr (.inr (.inl ⟨rfl, hb, h⟩))
    · exact .inr (.inl h)
  | status => exact .inr (.inr (.inr (.inl ⟨rfl, rfl⟩)))
  | ctrl =>
    cases hv : v.getLsbD 1 with
    | true => exact .inr (.inr (.inr (.inr ⟨rfl, rfl, by simp [State.writeReg, State.writeCtrl, hv]⟩)))
    | false => exact .inl (by rw [State.writeReg, s.writeCtrl_ie hv]; exact ⟨rfl, rfl, rfl, rfl, rfl⟩)
  | msgLen | keyLen | cfg | timeStep | epochLo | epochHi | timeLo | timeHi | cntLo | cntHi =>
    refine Or.imp_right .inl (s.ifIdle_flags _ ?_)
    exact ⟨rfl, rfl, rfl, rfl, rfl⟩
  | id | caps | errInfo | outLen | code | lcntLo | lcntHi | msgSize | keySize | outSize =>
    exact .inl ⟨rfl, rfl, rfl, rfl, rfl⟩

/-- A write to a buffer leaves the flags alone or is dropped (20_memory R68, R70). -/
theorem State.writeBuf_flags (s : State) (b : Buf) (i : Nat) (bytes : List Byte) :
    SameFlags s (s.writeBuf b i bytes) ∨ (s.busy = true ∧ s.writeBuf b i bytes = s.dropWrite) := by
  cases b with
  | msg | key =>
    refine s.ifIdle_flags _ ?_
    exact ⟨rfl, rfl, rfl, rfl, rfl⟩
  | out => exact .inl ⟨rfl, rfl, rfl, rfl, rfl⟩

/-- An answer to a write leaves the flags alone. -/
theorem SameFlags.answerOkay {s t : State} (h : SameFlags s t) : SameFlags s t.answerOkay :=
  ⟨h.busy, h.done, h.ovr, h.err, h.log⟩

/-- What one host access does to the flags: nothing, a dropped write, an acceptance, an acknowledgement, or a soft
reset. -/
theorem State.bus_flags (s : State) (x : Access) :
    SameFlags s (s.bus x) ∨
    (s.busy = true ∧ (∃ v, x.dir = .write v) ∧ s.bus x = s.dropWrite.answerOkay) ∨
    (∃ v, x.target s.params = .reg .cmd ∧ x.dir = .write v ∧ s.busy = false ∧ s.bus x = (s.accept v).answerOkay) ∨
    (∃ v, x.target s.params = .reg .status ∧ x.dir = .write v ∧ s.bus x = (s.ackStatus v).answerOkay) ∨
    (∃ v, x.target s.params = .reg .ctrl ∧ x.dir = .write v ∧ v.getLsbD 1 = true ∧
      s.bus x = s.softReset.answerOkay) := by
  rcases s.bus_cases x with ⟨_, e⟩ | ⟨_, d, e⟩ | ⟨r, v, ht, hd, e⟩ | ⟨b, i, bytes, _, _, hd, e⟩ <;> rw [e]
  · exact .inl ⟨rfl, rfl, rfl, rfl, rfl⟩
  · exact .inl ⟨rfl, rfl, rfl, rfl, rfl⟩
  · rcases s.writeReg_flags r v with h | ⟨hb, h⟩ | ⟨rfl, hb, h⟩ | ⟨rfl, h⟩ | ⟨rfl, hv, h⟩
    · exact .inl h.answerOkay
    · exact .inr (.inl ⟨hb, ⟨v, hd⟩, congrArg _ h⟩)
    · exact .inr (.inr (.inl ⟨v, ht, hd, hb, congrArg _ h⟩))
    · exact .inr (.inr (.inr (.inl ⟨v, ht, hd, congrArg _ h⟩)))
    · exact .inr (.inr (.inr (.inr ⟨v, ht, hd, hv, congrArg _ h⟩)))
  · rcases s.writeBuf_flags b i bytes with h | ⟨hb, h⟩
    · exact .inl h.answerOkay
    · exact .inr (.inl ⟨hb, hd, congrArg _ h⟩)

/-! ## What a completion does to the flags -/

/-- A command that reports its errors leaves LOG alone (60_exceptions R183). -/
theorem State.conclude_log (s : State) (x : Except CmdError Result) : (s.conclude x).log = s.log := by
  cases x <;> rfl

/-- Only a GETCODE writes LOG (10_state R43). -/
theorem exec_log {i : Instr} {s t : State} (h : exec i s = .next t) : t.log = s.log ∨ ∃ d, i = .getcode d := by
  cases i with
  | getcode d => exact .inr ⟨d, rfl⟩
  | sha1 | hmac | b32dec | hotp | totp => cases h; exact .inl (State.conclude_log _ _)

/-- A completion clears BUSY, sets DONE, leaves OVR, and writes LOG only for a GETCODE. -/
structure CompletesFlags (s t : State) : Prop where
  busy : t.busy = false
  done : t.done = true
  ovr : t.ovr = s.ovr
  log : t.log = s.log ∨ ∃ d, s.complete = exec (.getcode d) s

theorem exec_completesFlags {i : Instr} {s t : State} (hs : s.complete = exec i s) (h : exec i s = .next t) :
    CompletesFlags s t := by
  have hlog : t.log = s.log ∨ ∃ d, s.complete = exec (.getcode d) s :=
    (exec_log h).imp_right fun ⟨d, hd⟩ => ⟨d, hd ▸ hs⟩
  obtain ⟨w, log, err, info, r, e, _⟩ := exec_ending i s
  cases e.symm.trans h
  exact ⟨rfl, rfl, rfl, hlog⟩

theorem State.complete_flags {s t : State} (h : s.complete = .next t) : CompletesFlags s t := by
  cases hd : decode s.cmd with
  | ok i => exact exec_completesFlags (State.complete_ok hd) ((State.complete_ok hd).symm.trans h)
  | error c => cases (State.complete_error hd).symm.trans h; exact ⟨rfl, rfl, rfl, .inl rfl⟩

/-! ## The flags over a step -/

/-- What one step can do to the flags: nothing, or what a writer of 10_state R43 leaves in them. -/
inductive FlagStep (s t : State) : Prop where
  | stands (h : SameFlags s t)
  | completes (hb : s.busy = true) (he : s.EngineNext) (h : CompletesFlags s.pop t)
  | drops (hb : s.busy = true) (x : Access) (v : Word) (hx : s.inputs.head? = some (.access x)) (hd : x.dir = .write v)
      (h : t = s.pop.dropWrite.answerOkay)
  | accepts (hb : s.busy = false) (v : Word) (hw : s.NextWrites .cmd v) (h : t = (s.pop.accept v).answerOkay)
  | acknowledges (v : Word) (hw : s.NextWrites .status v) (h : t = (s.pop.ackStatus v).answerOkay)
  | resets (hr : s.NextResets) (hb : t.busy = false) (hd : t.done = false) (ho : t.ovr = false)

/-- The engine's turn completes, a host access writes as `State.bus_flags` says, NOW moves no flag, and the power-on
reset clears them. -/
theorem step_flags {s t : State} (h : step s = .next t) : FlagStep s t := by
  obtain ⟨_, h⟩ := step_next_cases h
  rcases h with ⟨he, h⟩ | ⟨x, hx, rfl⟩ | ⟨v, _, rfl⟩ | ⟨hp, rfl⟩
  · cases hb : s.busy with
    | false => cases (State.engineTurn_idle (s := s.pop) hb).symm.trans h; exact .stands ⟨rfl, rfl, rfl, rfl, rfl⟩
    | true => exact .completes hb he (State.complete_flags ((State.engineTurn_busy (s := s.pop) hb).symm.trans h))
  · rcases s.pop.bus_flags x with h | ⟨hb, ⟨v, hd⟩, h⟩ | ⟨v, ht, hd, hb, h⟩ | ⟨v, ht, hd, h⟩ | ⟨v, ht, hd, hv, h⟩
    · exact .stands ⟨h.busy, h.done, h.ovr, h.err, h.log⟩
    · exact .drops hb x v hx hd h
    · exact .accepts hb v ⟨x, hx, ht, hd⟩ h
    · exact .acknowledges v ⟨x, hx, ht, hd⟩ h
    · exact .resets (.inl ⟨v, ⟨x, hx, ht, hd⟩, hv⟩) (by rw [h]; rfl) (by rw [h]; rfl) (by rw [h]; rfl)
  · exact .stands ⟨rfl, rfl, rfl, rfl, rfl⟩
  · exact .resets (.inr hp) rfl rfl rfl

/-- Settles O55: each writer of the flags is the one the table gives for what it changes. -/
theorem flagsChangeOnlyAsTabled : Obligations.FlagsChangeOnlyAsTabled := by
  intro s t hstep
  have hw : s.params.wf = true := (step_next_cases hstep).1
  cases step_flags hstep with
  | stands h => simp +contextual [h.busy, h.done, h.ovr, h.err, h.log]
  | completes hb he h =>
    have hlog : t.log ≠ s.log → ∃ d, step s = exec (.getcode d) s.pop := fun hne =>
      (h.log.resolve_left hne).imp fun d hd => (step_complete hw hb he).trans hd
    have hovr : t.ovr = s.ovr := h.ovr
    simp +contextual [hb, he, h.busy, h.done, hovr, hlog]
  | drops hb x v hx hd h =>
    subst h
    simp +contextual [hb, hx, hd]
  | accepts hb v hwr h =>
    subst h
    have hrun : ∀ i, decode v = .ok i →
        (s.pop.accept v).answerOkay.complete = exec i (s.pop.accept v).answerOkay := fun i hi => State.complete_ok hi
    refine ⟨fun _ _ => ⟨v, hwr, rfl, hrun⟩, ?_⟩
    have hany : ∃ v, s.NextWrites .cmd v := ⟨v, hwr⟩
    simp +contextual [hb, hany]
  | acknowledges v hwr h =>
    subst h
    have hdone : v.getLsbD 1 = true → ∃ v, s.NextWrites .status v ∧ v.getLsbD 1 = true := fun hv => ⟨v, hwr, hv⟩
    have hovr : v.getLsbD 2 = true → ∃ v, s.NextWrites .status v ∧ v.getLsbD 2 = true := fun hv => ⟨v, hwr, hv⟩
    simp +contextual [hdone, hovr, -BitVec.getLsbD_eq_getElem]
  | resets hr hb hd ho => simp [hr, hb, hd, ho]

end Sys2Proof.Machine

/-! PROOF. The statements of 20_memory: what a host access does to the stored bytes and the results (R62 to R72), what
stands while a command runs (R69 to R71, R75), and the invariant that every step keeps (R67, R82). -/

namespace Sys2Proof.Machine

/-! ## One host access, by what it names -/

section Accesses

variable {s : State} {x : Access} {r : Reg} {b : Buf} {i : Nat} {v : Word}

theorem State.bus_bad (ht : x.target s.params = .bad) : s.bus x = { s with answer := some .error } := by
  simp only [State.bus, ht]

theorem State.bus_writes_reg (ht : x.target s.params = .reg r) (hd : x.dir = .write v) :
    s.bus x = (s.writeReg r v).answerOkay := by
  simp only [State.bus, ht, hd]

theorem State.bus_writes_byte (ht : x.target s.params = .byte b i) (hd : x.dir = .write v) :
    s.bus x = (s.writeBuf b i [v.setWidth 8]).answerOkay := by
  simp only [State.bus, ht, hd]

theorem State.bus_writes_word (ht : x.target s.params = .word b i) (hd : x.dir = .write v) :
    s.bus x = (s.writeBuf b i (be32Bytes v)).answerOkay := by
  simp only [State.bus, ht, hd]

theorem State.ifIdle_busy (hb : s.busy = true) (w : State) : s.ifIdle w = s.dropWrite := by
  simp only [State.ifIdle, hb, if_true]

/-- A write to CTRL with SRST is the soft reset (10_state R25). -/
theorem State.writeCtrl_srst (s : State) (hv : v.getLsbD 1 = true) : s.writeCtrl v = s.softReset := by
  unfold State.writeCtrl
  rw [if_pos hv]

/-- A write to MSG or KEY is dropped while BUSY (20_memory R70). -/
theorem State.writeBuf_busy (hb : s.busy = true) (ho : b ≠ .out) (i : Nat) (bytes : List Byte) :
    s.writeBuf b i bytes = s.dropWrite := by
  cases b with
  | msg | key => exact State.ifIdle_busy hb _
  | out => exact absurd rfl ho

end Accesses

/-! ## The results and the stored bytes over a step -/

/-- The parameters, the results, and what the buffers' bytes come from. -/
structure Stored where
  params : Params
  err : BitVec 4
  log : BitVec 4
  errInfo : Word
  outLen : Word
  code : Word
  lcntLo : Word
  lcntHi : Word
  mem : Memory
  ramDraw : Nat
  outDraw : Nat

/-- What of the state only a completion, a reset, or a host's write to MSG or KEY can change. -/
def State.stored (s : State) : Stored :=
  ⟨s.params, s.err, s.log, s.errInfo, s.outLen, s.code, s.lcntLo, s.lcntHi, s.mem, s.ramDraw, s.outDraw⟩

/-- Dropping a write touches no more than a write that touches nothing stored (20_memory R70). -/
theorem State.ifIdle_stored {s w : State} (h : w.stored = s.stored) : (s.ifIdle w).stored = s.stored := by
  rcases s.ifIdle_cases w with ⟨_, e⟩ | ⟨_, e⟩ <;> rw [e]
  · exact h
  · rfl

/-- No write to a register but the soft reset touches a result or a stored byte (10_state R20, R25). -/
theorem State.writeReg_stored (s : State) (r : Reg) (v : Word) :
    (s.writeReg r v).stored = s.stored ∨ (r = .ctrl ∧ v.getLsbD 1 = true ∧ s.writeReg r v = s.softReset) := by
  cases r with
  | ctrl =>
    cases hv : v.getLsbD 1 with
    | true => exact .inr ⟨rfl, rfl, s.writeCtrl_srst hv⟩
    | false => exact .inl (by rw [State.writeReg, s.writeCtrl_ie hv]; rfl)
  | cmd | msgLen | keyLen | cfg | timeStep | epochLo | epochHi | timeLo | timeHi | cntLo | cntHi =>
    exact .inl (State.ifIdle_stored rfl)
  | status | id | caps | errInfo | outLen | code | lcntLo | lcntHi | msgSize | keySize | outSize => exact .inl rfl

/-- The block after a host's write of `bytes` at window offset `a` took effect and was answered (20_memory R68). -/
def State.storing (s : State) (a : Nat) (bytes : List Byte) : State :=
  State.answerOkay { s with mem := s.mem.storeBytes a bytes }

/-- A host's write to buffer bytes is ignored or dropped, or stores them in MSG or KEY (20_memory R68, R70). -/
theorem State.writeBuf_cases (s : State) (b : Buf) (i : Nat) (bytes : List Byte) :
    (s.writeBuf b i bytes).answerOkay.stored = s.stored ∨
      (s.busy = false ∧ b ≠ .out ∧ (s.writeBuf b i bytes).answerOkay = s.storing (b.base + i) bytes) := by
  by_cases ho : b = .out
  · subst ho; exact .inl rfl
  · rcases Bool.eq_false_or_eq_true s.busy with hb | hb
    · exact .inl (by rw [State.writeBuf_busy hb ho]; rfl)
    · exact .inr ⟨hb, ho, congrArg _ (State.writeBuf_idle hb ho i bytes)⟩

/-- The access is a write of `bytes`, which fit, to MSG or KEY from index `i` (20_memory R64, R65). -/
structure StoresBytes (p : Params) (x : Access) (b : Buf) (i : Nat) (bytes : List Byte) : Prop where
  write : ∃ v, x.dir = .write v
  buf : b ≠ .out
  target : (x.target p = .byte b i ∧ bytes.length = 1) ∨ (x.target p = .word b i ∧ bytes.length = 4)
  fits : i + bytes.length ≤ b.size p

/-- What one step can do to the results and the stored bytes. -/
inductive StoredStep (s t : State) : Prop where
  | stands (h : t.stored = s.stored)
  | completes (hb : s.busy = true) (he : s.EngineNext) (w : Work) (log err : BitVec 4) (info : Word) (r : Result)
      (hr : Ending s.pop log err r)
      (h : t = State.finish { s.pop with work := w, log := log } err info r.out r.code r.lcnt)
  | stores (hb : s.busy = false) (x : Access) (b : Buf) (i : Nat) (bytes : List Byte)
      (hx : s.inputs.head? = some (.access x)) (hs : StoresBytes s.params x b i bytes)
      (h : t = s.pop.storing (b.base + i) bytes)
  | softResets (v : Word) (hw : s.NextWrites .ctrl v) (hv : v.getLsbD 1 = true) (h : t = s.pop.softReset.answerOkay)
  | powersOn (hp : s.inputs.head? = some .powerOn) (h : t = s.pop.powerOn)

/-- A host's write to buffer bytes, as a step. -/
theorem StoredStep.of_writeBuf {s : State} {x : Access} {v : Word} {b : Buf} {i : Nat} {bytes : List Byte}
    (hx : s.inputs.head? = some (.access x)) (hd : x.dir = .write v)
    (ht : (x.target s.params = .byte b i ∧ bytes.length = 1) ∨ (x.target s.params = .word b i ∧ bytes.length = 4))
    (hfits : i + bytes.length ≤ b.size s.params) : StoredStep s (s.pop.writeBuf b i bytes).answerOkay := by
  rcases s.pop.writeBuf_cases b i bytes with h | ⟨hb, ho, e⟩
  · exact .stands h
  · exact .stores hb x b i bytes hx ⟨⟨v, hd⟩, ho, ht, hfits⟩ e

/-- A read changes nothing but its answer and the count of draws (20_memory R72, log 4). -/
theorem State.bus_read (s : State) {x : Access} (hd : x.dir = .read) :
    ∃ d n, s.bus x = { s with answer := some d, draws := n } := by
  rcases s.bus_cases x with ⟨_, e⟩ | ⟨_, d, e⟩ | ⟨_, v, _, hv, _⟩ | ⟨_, _, _, _, _, ⟨v, hv⟩, _⟩
  · exact ⟨_, _, e⟩
  · exact ⟨_, _, e⟩
  · cases hd.symm.trans hv
  · cases hd.symm.trans hv

/-- A host access, as a step. -/
theorem StoredStep.of_access {s : State} {x : Access} (hx : s.inputs.head? = some (.access x)) :
    StoredStep s (s.pop.bus x) := by
  obtain ⟨hbyte, hword⟩ := Access.target_buf (p := s.params) (x := x)
  cases hd : x.dir with
  | read =>
    obtain ⟨d, n, e⟩ := s.pop.bus_read hd
    exact .stands (by rw [e]; rfl)
  | write v =>
    cases ht : x.target s.params with
    | bad => exact .stands (by rw [State.bus_bad (s := s.pop) ht]; rfl)
    | reg r =>
      rw [State.bus_writes_reg (s := s.pop) ht hd]
      rcases s.pop.writeReg_stored r v with h | ⟨rfl, hv, e⟩
      · exact .stands h
      · exact .softResets v ⟨x, hx, ht, hd⟩ hv (by rw [e])
    | byte b i =>
      rw [State.bus_writes_byte (s := s.pop) ht hd]
      obtain ⟨_, hi, _⟩ := hbyte b i ht
      exact .of_writeBuf hx hd (.inl ⟨ht, rfl⟩) hi
    | word b i =>
      rw [State.bus_writes_word (s := s.pop) ht hd]
      obtain ⟨_, hi, _⟩ := hword b i ht
      exact .of_writeBuf hx hd (.inr ⟨ht, rfl⟩) hi

/-- The engine's turn completes, a host access does as `StoredStep.of_access` says, a change of NOW touches nothing
stored, and the power-on reset is its own case. -/
theorem step_stored {s t : State} (h : step s = .next t) : StoredStep s t := by
  obtain ⟨_, h⟩ := step_next_cases h
  rcases h with ⟨he, h⟩ | ⟨x, hx, rfl⟩ | ⟨v, _, rfl⟩ | ⟨hp, rfl⟩
  · rcases s.pop.engineTurn_cases with ⟨_, e⟩ | ⟨hb, w, log, err, info, r, e, hr⟩
    · cases e.symm.trans h; exact .stands rfl
    · cases e.symm.trans h; exact .completes hb he w log err info r hr rfl
  · exact .of_access hx
  · exact .stands rfl
  · exact .powersOn hp rfl

/-! ## The invariant -/

/-- DONE is 0 after a step that leaves BUSY at 1: only a completion sets it (10_state R27). -/
theorem FlagStep.busy_done {s t : State} (h : FlagStep s t) (hs : s.busy = true → s.done = false)
    (hb : t.busy = true) : t.done = false := by
  cases h with
  | stands h => rw [h.done]; exact hs (h.busy ▸ hb)
  | completes _ _ h => exact absurd (h.busy.symm.trans hb) (by decide)
  | drops hb' _ _ _ _ h => subst h; exact hs hb'
  | accepts _ _ _ h => subst h; rfl
  | acknowledges v _ h => subst h; simp [hs hb]
  | resets _ hb' _ _ => exact absurd (hb'.symm.trans hb) (by decide)

section Invariant

variable {s t : State} (hs : s.Inv)
include hs

theorem State.Inv.of_stored (h : t.stored = s.stored) (hd : t.busy = true → t.done = false) : t.Inv := by
  have hmem : t.mem = s.mem := congrArg Stored.mem h
  have hparams : t.params = s.params := congrArg Stored.params h
  have herr : t.err = s.err := congrArg Stored.err h
  have hlog : t.log = s.log := congrArg Stored.log h
  have hlen : t.outLen = s.outLen := congrArg Stored.outLen h
  have hcode : t.code = s.code := congrArg Stored.code h
  have hempty : t.err ≠ 0 → t.outLen = 0 ∧ t.code = 0 ∧ t.lcntHi = 0 ∧ t.lcntLo = 0 := by
    rw [herr, hlen, hcode, show t.lcntHi = s.lcntHi from congrArg Stored.lcntHi h,
      show t.lcntLo = s.lcntLo from congrArg Stored.lcntLo h]
    exact hs.err_empty
  exact {
    mem_wf := hmem ▸ hs.mem_wf
    mem_backed := by rw [hmem, hparams]; exact hs.mem_backed
    out_below := by rw [hmem, hlen]; exact hs.out_below
    err_code := herr ▸ hs.err_code
    log_code := hlog ▸ hs.log_code
    busy_done := hd
    outLen_le := by rw [hlen, hparams]; exact hs.outLen_le
    err_empty := hempty
    code_lt := hcode ▸ hs.code_lt }

/-- A completion stores exactly OUT_LEN bytes in OUT, and they fit (20_memory R82, 00_scope R9). -/
theorem State.Inv.finish (hw : s.params.wf = true) (w : Work) {log err : BitVec 4} (info : Word) {r : Result}
    (he : Ending s log err r) :
    (State.finish { s with work := w, log := log } err info r.out r.code r.lcnt).Inv := by
  have hfit : r.out.length ≤ s.params.outBytes := he.fits.out_le hw
  have hcount : (BitVec.ofNat 32 r.out.length).toNat = r.out.length := by
    rw [BitVec.toNat_ofNat, Nat.mod_eq_of_lt (he.fits.out_length_lt hw)]
  have hcell : ∀ y ∈ (s.mem.below Buf.out.base).storeBytes Buf.out.base r.out,
      (Buf.out.base ≤ y.1 ∧ y.1 < Buf.out.base + r.out.length) ∨ (y ∈ s.mem ∧ y.1 < Buf.out.base) :=
    fun y hy => (Memory.mem_storeBytes hy).imp_right Memory.mem_below.1
  exact {
    mem_wf := Memory.storeBytes_wf (Memory.below_wf hs.mem_wf _) _
    mem_backed := fun y hy => by
      rcases hcell y hy with ⟨hlo, hhi⟩ | ⟨hm, _⟩
      · exact ⟨.out, hlo, Nat.lt_of_lt_of_le hhi (Nat.add_le_add_left hfit _)⟩
      · exact hs.mem_backed y hm
    out_below := fun y hy ho => by
      rw [State.finish_outLen, hcount]
      rcases hcell y hy with ⟨_, hhi⟩ | ⟨_, hlt⟩
      · exact hhi
      · exact absurd ho (Nat.not_le.2 hlt)
    err_code := he.err_le
    log_code := he.log_ok.elim (fun e => e ▸ hs.log_code) id
    busy_done := nofun
    outLen_le := by rw [State.finish_outLen, hcount]; exact hfit
    err_empty := fun hne => by
      cases he.err_empty hne
      exact ⟨rfl, rfl, rfl, rfl⟩
    code_lt := he.fits.code_lt }

/-- A write to MSG or KEY stores backed bytes below OUT (20_memory R61, R67). -/
theorem State.Inv.stores (hw : s.params.wf = true) {x : Access} {b : Buf} {i : Nat} {bytes : List Byte}
    (hx : StoresBytes s.params x b i bytes) :
    (s.storing (b.base + i) bytes).Inv := by
  have hbelow : b.base + (i + bytes.length) ≤ Buf.out.base := Buf.base_add_le_out hw hx.buf hx.fits
  have hfits : i + bytes.length ≤ b.size s.params := hx.fits
  exact {
    mem_wf := Memory.storeBytes_wf hs.mem_wf _
    mem_backed := fun y hy => by
      rcases Memory.mem_storeBytes hy with ⟨hlo, hhi⟩ | hm
      · exact ⟨b, by omega, by show y.1 < b.base + b.size s.params; omega⟩
      · exact hs.mem_backed y hm
    out_below := fun y hy ho => by
      rcases Memory.mem_storeBytes hy with ⟨hlo, hhi⟩ | hm
      · omega
      · exact hs.out_below y hm ho
    err_code := hs.err_code
    log_code := hs.log_code
    busy_done := hs.busy_done
    outLen_le := hs.outLen_le
    err_empty := hs.err_empty
    code_lt := hs.code_lt }

end Invariant

/-- Clear results and no byte of OUT, as every reset leaves them, meet the invariant (70_reset R211, R212). -/
theorem State.inv_of_cleared {t : State} (hwf : t.mem.wf) (hback : ∀ y ∈ t.mem, backed t.params y.1)
    (hout : ∀ y ∈ t.mem, y.1 < Buf.out.base) (hbusy : t.busy = false) (herr : t.err = 0) (hlog : t.log = 0)
    (hlen : t.outLen = 0) (hcode : t.code = 0) : t.Inv where
  mem_wf := hwf
  mem_backed := hback
  out_below y hy ho := absurd ho (Nat.not_le.2 (hout y hy))
  err_code := by rw [herr]; decide
  log_code := by rw [hlog]; decide
  busy_done hb := absurd (hbusy.symm.trans hb) (by decide)
  outLen_le := by rw [hlen]; exact Nat.zero_le _
  err_empty h := absurd herr h
  code_lt := by rw [hcode]; decide

/-- The soft reset keeps MSG and KEY (70_reset R212). -/
theorem State.Inv.softReset {s : State} (hs : s.Inv) : s.softReset.answerOkay.Inv :=
  State.inv_of_cleared (Memory.below_wf hs.mem_wf _) (fun y hy => hs.mem_backed y (Memory.mem_below.1 hy).1)
    (fun _ hy => (Memory.mem_below.1 hy).2) rfl rfl rfl rfl rfl

/-- The power-on reset forgets every byte (70_reset R211). -/
theorem State.powerOn_inv (s : State) : s.powerOn.Inv :=
  State.inv_of_cleared .nil nofun nofun rfl rfl rfl rfl rfl

/-- Taking an event off the schedule touches nothing the invariant speaks of. -/
theorem State.Inv.pop {s : State} (hs : s.Inv) : s.pop.Inv :=
  ⟨hs.mem_wf, hs.mem_backed, hs.out_below, hs.err_code, hs.log_code, hs.busy_done, hs.outLen_le, hs.err_empty,
    hs.code_lt⟩

/-- Settles O9: by what a step can do to the results and the stored bytes, and by what it can do to the flags. -/
theorem stepKeepsTheInvariant : Obligations.StepKeepsTheInvariant := by
  intro s t hs hstep
  have hw : s.params.wf = true := (step_next_cases hstep).1
  cases step_stored hstep with
  | stands h => exact hs.of_stored h fun hb => (step_flags hstep).busy_done hs.busy_done hb
  | completes _ _ w log err info r hr h => subst h; exact hs.pop.finish hw w info hr
  | stores _ x b i bytes _ hx h => subst h; exact hs.pop.stores hw hx
  | softResets v _ _ h => subst h; exact hs.pop.softReset
  | powersOn _ h => subst h; exact s.pop.powerOn_inv

/-! ## Writes while BUSY -/

/-- A write to buffer bytes of either size (20_memory R65). -/
theorem State.bus_writes_buf {s : State} {x : Access} {b : Buf} {i : Nat} {v : Word}
    (ht : x.target s.params = .byte b i ∨ x.target s.params = .word b i) (hd : x.dir = .write v) :
    ∃ bytes, s.bus x = (s.writeBuf b i bytes).answerOkay := by
  rcases ht with ht | ht
  · exact ⟨_, State.bus_writes_byte ht hd⟩
  · exact ⟨_, State.bus_writes_word ht hd⟩

theorem State.writeReg_frozen {s : State} (hb : s.busy = true) (v : Word) :
    ∀ r ∈ Reg.frozen, s.writeReg r v = s.dropWrite := by
  simp [Reg.frozen, State.writeReg, State.ifIdle_busy hb]

/-- Settles O44: what a write does to each kind of target while BUSY. -/
theorem busyWritesAreDropped : Obligations.BusyWritesAreDropped := by
  intro s x v hb hd
  refine ⟨fun r ht hr => ?_, fun b i ht ho => ?_, fun i ht => ?_, fun r ht hr => ?_, fun ht hv => ?_, fun ht => ?_⟩
  · rw [State.bus_writes_reg ht hd, State.writeReg_frozen hb v r hr]; rfl
  · obtain ⟨bytes, e⟩ := State.bus_writes_buf ht hd
    rw [e, State.writeBuf_busy hb ho]; rfl
  · obtain ⟨bytes, e⟩ := State.bus_writes_buf ht hd
    exact e
  · rw [State.bus_writes_reg ht hd, s.writeReg_readOnly v r hr]; rfl
  · rw [State.bus_writes_reg ht hd, State.writeReg, s.writeCtrl_ie hv]; rfl
  · rw [State.bus_writes_reg ht hd, State.writeReg, s.ackStatus_eq]; rfl

/-! ## What a running command reads stands -/

theorem AgreeOnOperands.trans {s t u : State} (h : AgreeOnOperands s t) (h' : AgreeOnOperands t u) :
    AgreeOnOperands s u where
  params := h'.params.trans h.params
  msgLen := h'.msgLen.trans h.msgLen
  keyLen := h'.keyLen.trans h.keyLen
  codeLen := h'.codeLen.trans h.codeLen
  timeStep := h'.timeStep.trans h.timeStep
  epoch := h'.epoch.trans h.epoch
  time := h'.time.trans h.time
  counter := h'.counter.trans h.counter
  buffers a ha := (h'.buffers a ha).trans (h.buffers a ha)

/-- The schedule is no operand. -/
theorem State.pop_agrees (s : State) : AgreeOnOperands s s.pop :=
  ⟨rfl, rfl, rfl, rfl, rfl, rfl, rfl, rfl, fun _ _ => rfl⟩

/-- A step from BUSY to BUSY leaves every operand (20_memory R70). -/
theorem step_busy_agrees {s t : State} (hb : s.busy = true) (h : step s = .next t) (ht : t.busy = true) :
    AgreeOnOperands s t := by
  obtain ⟨_, h⟩ := step_next_cases h
  rcases h with ⟨_, h⟩ | ⟨x, _, rfl⟩ | ⟨v, _, rfl⟩ | ⟨_, rfl⟩
  · have hdone : t.busy = false := (State.complete_flags ((State.engineTurn_busy (s := s.pop) hb).symm.trans h)).busy
    exact absurd (hdone.symm.trans ht) (by decide)
  · obtain ⟨_, _, hagree⟩ := State.bus_busy (s := s.pop) hb x ht
    exact s.pop_agrees.trans hagree
  · exact ⟨rfl, rfl, rfl, rfl, rfl, rfl, rfl, rfl, fun _ _ => rfl⟩
  · cases ht

/-- What a command reads stands for as long as it runs. -/
theorem WhileBusy.agrees {s t : State} (h : WhileBusy s t) : AgreeOnOperands s t := by
  induction h with
  | refl _ => exact ⟨rfl, rfl, rfl, rfl, rfl, rfl, rfl, rfl, fun _ _ => rfl⟩
  | tail hst hstep hu ih => exact ih.trans (step_busy_agrees hst.busy.2 hstep hu)

/-- A command gives the same results from two states that agree on what it reads and on the sampled time. -/
theorem exec_sameResults {s s' : State} (hw : s.params.wf = true) (h : AgreeOnOperands s s') (hnow : s'.now = s.now)
    (i : Instr) : ∃ r r', exec i s = .next r ∧ exec i s' = .next r' ∧ SameResults r r' := by
  cases i with
  | sha1 => exact ⟨_, _, rfl, rfl, conclude_sameResults hw (fun _ => State.sha1Body_fits) (h.sha1Body_eq hw)⟩
  | hmac => exact ⟨_, _, rfl, rfl, conclude_sameResults hw (fun _ => State.hmacBody_fits) (h.hmacBody_eq hw)⟩
  | b32dec => exact ⟨_, _, rfl, rfl, conclude_sameResults hw (fun _ => State.b32decBody_fits) (h.b32decBody_eq hw)⟩
  | hotp b => exact ⟨_, _, rfl, rfl, conclude_sameResults hw (fun _ => State.hotpBody_fits) (h.hotpBody_eq hw b)⟩
  | totp b => exact ⟨_, _, rfl, rfl, conclude_sameResults hw (fun _ => State.totpBody_fits) (h.totpBody_eq hw b)⟩
  | getcode d =>
    exact ⟨_, _, rfl, rfl,
      (concludeCaught_sameResults hw (fun _ => State.getcodeBody_fits) (h.getcodeBody_eq hw hnow d)).1⟩

/-- The same latched word completes with the same results, ILLEGAL_CMD included. -/
theorem complete_sameResults {s s' : State} (hw : s.params.wf = true) (h : AgreeOnOperands s s') (hcmd : s'.cmd = s.cmd)
    (hnow : s'.now = s.now) : ∃ r r', s.complete = .next r ∧ s'.complete = .next r' ∧ SameResults r r' := by
  cases hd : decode s.cmd with
  | ok i =>
    rw [State.complete_ok hd, State.complete_ok (s := s') (hcmd ▸ hd)]
    exact exec_sameResults hw h hnow i
  | error c =>
    refine ⟨_, _, State.complete_error hd, State.complete_error (s := s') (hcmd ▸ hd), ?_⟩
    rw [hcmd]
    exact finish_sameResults _ _ _ _ _ _ _ (by decide)

/-- Settles O45: what was latched and what is read both stand, so the completion is the same. -/
theorem operandsCannotChangeWhileBusy : Obligations.OperandsCannotChangeWhileBusy := by
  intro s t hb hstep ht
  have hw : s.params.wf = true := (step_next_cases hstep).1
  obtain ⟨hcmd, hnow, _⟩ := step_busy hb hstep ht
  have hagree : AgreeOnOperands s t := step_busy_agrees hb hstep ht
  exact ⟨hagree, complete_sameResults hw hagree hcmd hnow⟩

/-! ## Which accesses are legal -/

/-- The offsets of the registers are the multiples of 4 below 0x5C (10_state R20, R42). -/
theorem Reg.ofOffset_isSome_iff {a : Nat} (h4 : a % 4 = 0) : (∃ r, Reg.ofOffset a = some r) ↔ a < 0x5C := by
  constructor
  · rintro ⟨r, hr⟩
    have ha : r.offset = a := by simpa using List.find?_some hr
    rw [← ha]
    cases r <;> decide
  · intro ha
    have hall : ∀ k < 23, (Reg.ofOffset (4 * k)).isSome = true := by decide
    have hk : a = 4 * (a / 4) := by omega
    rw [hk]
    exact Option.isSome_iff_exists.1 (hall (a / 4) (by omega))

theorem regTarget_ne_bad_iff {a size : Nat} : regTarget a size ≠ .bad ↔ size = 4 ∧ a % 4 = 0 ∧ a < 0x5C := by
  unfold regTarget
  by_cases h : size = 4 ∧ a % 4 = 0
  · rw [if_pos h, ← and_assoc, and_iff_right h, ← Reg.ofOffset_isSome_iff h.2]
    cases Reg.ofOffset a <;> simp
  · rw [if_neg h, ← and_assoc]
    simp [h]

theorem Buf.base_ofOffset_le {a : Nat} (ha : Buf.msg.base ≤ a) : (Buf.ofOffset a).base ≤ a := by
  unfold Buf.ofOffset
  split
  · exact ha
  · split
    · exact Nat.not_lt.1 ‹_›
    · exact Nat.not_lt.1 ‹_›

theorem bufTarget_ne_bad_iff {p : Params} (hw : p.wf = true) {a size : Nat} (ha : Buf.msg.base ≤ a) :
    bufTarget p a size ≠ .bad ↔ ∃ b : Buf, b.base ≤ a ∧
      ((size = 1 ∧ a < b.base + b.size p) ∨ (size = 4 ∧ a % 4 = 0 ∧ a + 4 ≤ b.base + b.size p)) := by
  have hbase := Buf.base_ofOffset_le ha
  have htarget : bufTarget p a size ≠ .bad ↔
      (size = 1 ∧ a < (Buf.ofOffset a).base + (Buf.ofOffset a).size p) ∨
      (size = 4 ∧ a % 4 = 0 ∧ a + 4 ≤ (Buf.ofOffset a).base + (Buf.ofOffset a).size p) := by
    unfold bufTarget
    dsimp only
    split
    · simp; omega
    · split
      · simp; omega
      · simp; omega
  rw [htarget]
  constructor
  · exact fun h => ⟨_, hbase, h⟩
  · rintro ⟨b, hb, h⟩
    have hsize := Buf.size_le hw b
    rwa [Buf.ofOffset_eq hb (by omega)]

/-- The model's targets are the legal accesses of 20_memory R62 to R64 and R67. -/
theorem Access.target_ne_bad_iff {p : Params} (hw : p.wf = true) (x : Access) : x.target p ≠ .bad ↔ x.Legal p := by
  unfold Access.target Access.Legal
  split
  · rename_i hlow
    rw [regTarget_ne_bad_iff, or_iff_left]
    rintro ⟨b, hb, _⟩
    have hmsg : Buf.msg.base ≤ b.base := by cases b <;> decide
    omega
  · rename_i hhigh
    rw [bufTarget_ne_bad_iff hw (Nat.not_lt.1 hhigh), or_iff_right]
    rintro ⟨_, _, h⟩
    exact hhigh (Nat.lt_trans h (by decide))

/-- An access that names something is answered OKAY. -/
theorem State.bus_answers {s : State} {x : Access} (h : x.target s.params ≠ .bad) :
    ∃ d, (s.bus x).answer = some d ∧ d ≠ .error := by
  unfold State.bus
  split
  case h_7 ht => exact absurd ht h
  all_goals exact ⟨_, rfl, nofun⟩

/-- Settles O46: an access is turned away exactly when it names nothing, which is when it is not legal. -/
theorem illegalAccessesChangeNothing : Obligations.IllegalAccessesChangeNothing := by
  intro s x hw
  have hiff := Access.target_ne_bad_iff hw x
  refine ⟨fun hl => State.bus_bad ?_, fun hl => State.bus_answers (hiff.2 hl)⟩
  by_contra hne
  exact hl (hiff.1 hne)

/-! ## Bytes through the bus -/

/-- A host's 4-byte write to MSG or KEY while IDLE (20_memory R65, R68). -/
theorem State.bus_write_word_idle {s : State} (hw : s.params.wf = true) (hb : s.busy = false) {b : Buf} (ho : b ≠ .out)
    {i : Nat} (h4 : i % 4 = 0) (hi : i + 4 ≤ b.size s.params) (v : Word) :
    s.bus ⟨.write v, BitVec.ofNat 18 (b.base + i), 4⟩ =
      s.storing (b.base + i) (be32Bytes v) := by
  rw [State.bus_writes_word (Access.target_word hw _ b h4 hi) rfl, State.writeBuf_idle hb ho]; rfl

/-- A host's 1-byte write to MSG or KEY while IDLE (20_memory R65, R68). -/
theorem State.bus_write_byte_idle {s : State} (hw : s.params.wf = true) (hb : s.busy = false) {b : Buf} (ho : b ≠ .out)
    {i : Nat} (hi : i < b.size s.params) (v : Word) :
    s.bus ⟨.write v, BitVec.ofNat 18 (b.base + i), 1⟩ =
      s.storing (b.base + i) [v.setWidth 8] := by
  rw [State.bus_writes_byte (Access.target_byte hw _ b hi) rfl, State.writeBuf_idle hb ho]; rfl

/-- A buffer byte reads as the byte held, unless it is a byte of OUT while BUSY (20_memory R68, R71). -/
theorem State.busByte_held {s : State} {b : Buf} (h : b ≠ .out ∨ s.busy = false) (i : Nat) :
    s.busByte b i = s.byteAt (b.base + i) := by
  unfold State.busByte
  rw [if_neg]
  rintro ⟨rfl, hb⟩
  exact h.elim (· rfl) fun hb' => absurd (hb'.symm.trans hb) (by decide)

/-- What a 1-byte read of a byte held answers (20_memory R65, R68, R71). -/
theorem State.read_byte_held {s : State} (hw : s.params.wf = true) {b : Buf} (h : b ≠ .out ∨ s.busy = false) {i : Nat}
    (hi : i < b.size s.params) :
    (s.bus ⟨.read, BitVec.ofNat 18 (b.base + i), 1⟩).answer = some (.byte (s.byteAt (b.base + i))) := by
  rw [State.bus_read_byte hw hi, State.answerRead_answer, State.busByte_held h]

/-- What a 4-byte read of bytes held answers: the first byte is the most significant (20_memory R65). -/
theorem State.read_word_held {s : State} (hw : s.params.wf = true) {b : Buf} (h : b ≠ .out ∨ s.busy = false) {i : Nat}
    (h4 : i % 4 = 0) (hi : i + 4 ≤ b.size s.params) :
    (s.bus ⟨.read, BitVec.ofNat 18 (b.base + i), 4⟩).answer =
      some (.word (be32 (s.byteAt (b.base + i)) (s.byteAt (b.base + i + 1)) (s.byteAt (b.base + i + 2))
        (s.byteAt (b.base + i + 3)))) := by
  simp only [State.bus_read_word hw h4 hi, State.answerRead_answer, State.busWord, State.busByte_held h, Nat.add_assoc]

theorem State.byteAt_storing (s : State) (a : Nat) (bytes : List Byte) (x : Nat) :
    (s.storing a bytes).byteAt x = if a ≤ x ∧ x < a + bytes.length then bytes.getD (x - a) 0 else s.byteAt x :=
  s.byteAt_storeBytes a x bytes

/-- A byte inside a store is the one stored there. -/
theorem State.byteAt_storing_in (s : State) (a : Nat) {bytes : List Byte} {k : Nat} (hk : k < bytes.length) :
    (s.storing a bytes).byteAt (a + k) = bytes.getD k 0 := by
  rw [State.byteAt_storing, if_pos (by omega), Nat.add_sub_cancel_left]

/-- A byte outside a store stands. -/
theorem State.byteAt_storing_out (s : State) {a x : Nat} {bytes : List Byte} (hx : x < a ∨ a + bytes.length ≤ x) :
    (s.storing a bytes).byteAt x = s.byteAt x := by
  rw [State.byteAt_storing, if_neg (by omega)]

/-- Settles O47: the bytes stored are those of the word, and a read puts them together again. -/
theorem bufferWritesAreBigEndian : Obligations.BufferWritesAreBigEndian := by
  intro s b i v hw hb ho
  refine ⟨fun h4 hi => ⟨_, State.bus_write_word_idle hw hb ho h4 hi v, ?_⟩,
    fun hi => ⟨_, State.bus_write_byte_idle hw hb ho hi v, ?_⟩⟩
  · have hbyte : ∀ k < 4, (s.storing (b.base + i) (be32Bytes v)).byteAt (b.base + i + k) = (be32Bytes v).getD k 0 :=
      fun k hk => s.byteAt_storing_in (b.base + i) hk
    have h0 : (s.storing (b.base + i) (be32Bytes v)).byteAt (b.base + i) = v.extractLsb' 24 8 := hbyte 0 (by decide)
    have hword := (s.storing (b.base + i) (be32Bytes v)).read_word_held hw (.inl ho) h4 hi
    rw [h0, hbyte 1 (by decide), hbyte 2 (by decide), hbyte 3 (by decide)] at hword
    refine ⟨rfl, h0, hbyte 1 (by decide), hbyte 2 (by decide), hbyte 3 (by decide),
      fun a ha => s.byteAt_storing_out ha, hword.trans ?_, ?_⟩
    · exact congrArg (some ∘ Answer.word) (be32_extract v)
    · rw [State.read_byte_held (s := s.storing _ _) hw (.inl ho) (show i < b.size s.params by omega), h0]
  · have hlow : v.setWidth 8 = v.extractLsb' 0 8 := BitVec.setWidth_eq_extractLsb' (by decide)
    have h0 : (s.storing (b.base + i) [v.setWidth 8]).byteAt (b.base + i) = v.extractLsb' 0 8 :=
      (s.byteAt_storing_in (b.base + i) (bytes := [v.setWidth 8]) Nat.one_pos).trans hlow
    refine ⟨rfl, h0, fun a ha => s.byteAt_storing_out (by simp only [List.length_singleton]; omega), ?_⟩
    rw [State.read_byte_held (s := s.storing _ _) hw (.inl ho) hi, h0]

/-! ## Reads of OUT -/

theorem byteAt_of_outHolds {t : State} {bytes : List Byte} (h : t.OutHolds bytes) {j : Nat} (hj : j < bytes.length) :
    t.byteAt (Buf.out.base + j) = bytes[j] := by
  have hread := List.getElem_of_eq h (i := j) (by simpa using hj)
  simpa [State.memRead] using hread

/-- Four bytes of OUT that are a word's read as that word (20_memory R65, R82). -/
theorem State.read_out_word {t : State} (hw : t.params.wf = true) (hb : t.busy = false) {pre post : List Byte}
    {w : Word} (h4 : pre.length % 4 = 0) (hfit : pre.length + 4 ≤ t.params.outBytes)
    (hout : t.OutHolds (pre ++ be32Bytes w ++ post)) :
    (t.bus ⟨.read, BitVec.ofNat 18 (Buf.out.base + pre.length), 4⟩).answer = some (.word w) := by
  have hbyte : ∀ k (hk : k < (be32Bytes w).length), t.byteAt (Buf.out.base + pre.length + k) = (be32Bytes w)[k] := by
    intro k hk
    rw [Nat.add_assoc, byteAt_of_outHolds hout (by simp only [List.length_append]; omega),
      List.getElem_append_left (by simp only [List.length_append]; omega), List.getElem_append_right (by omega)]
    simp only [Nat.add_sub_cancel_left]
  have h0 : t.byteAt (Buf.out.base + pre.length) = w.extractLsb' 24 8 := hbyte 0 (by simp)
  rw [State.read_word_held hw (b := .out) (.inr hb) h4 hfit, h0, hbyte 1 (by simp), hbyte 2 (by simp),
    hbyte 3 (by simp)]
  exact congrArg (some ∘ Answer.word) (be32_extract w)

/-- SHA1 with a message that fits completes with its digest in OUT (40_sha1 R117). -/
theorem exec_sha1_fits {s : State} (hl : s.msgLen.toNat ≤ s.params.msgBytes) :
    ∃ t, exec .sha1 s = .next t ∧ SameInputs s t ∧ Completed t 0 s.log 0 20 0 0 ∧
      t.OutHolds (sha1 (s.memRead .msg 0 s.msgLen.toNat)) := by
  have hbody : s.sha1Body = .ok ⟨sha1 (s.memRead .msg 0 s.msgLen.toNat), 0, 0⟩ := by
    simp only [State.sha1Body, State.message_eq hl, bind, Except.bind]
  obtain ⟨t, ht, hrest⟩ := conclude_ok s s.workAfterSha1 ⟨sha1 (s.memRead .msg 0 s.msgLen.toNat), 0, 0⟩
  rw [← hbody] at ht
  exact ⟨t, congrArg _ ht, hrest⟩

/-- Settles O48: OUT holds the five words of the digest, each at its place. -/
theorem outReadsAsTheDigestWords : Obligations.OutReadsAsTheDigestWords := by
  intro s t hw hl ht
  obtain ⟨u, hu, hin, hdone, hout⟩ := exec_sha1_fits hl
  cases hu.symm.trans ht
  have hwt : t.params.wf = true := hin.params ▸ hw
  obtain ⟨_, _, hsize, _⟩ := Params.wf_sizes hwt
  have hread := @State.read_out_word t hwt hdone.busy
  generalize hh : (runSha1 (s.memRead .msg 0 s.msgLen.toNat)).hash = h
  have hdigest : t.OutHolds h.bytes := hh ▸ hout
  refine ⟨h, rfl, ?_, ?_, ?_, ?_, ?_⟩
  · exact hread (pre := []) (by decide) (by simp; omega) (by simpa [FiveWords.bytes] using hdigest)
  · exact hread (pre := be32Bytes h.a) (by simp) (by simp; omega) hdigest
  · exact hread (pre := be32Bytes h.a ++ be32Bytes h.b) (by simp) (by simp; omega) hdigest
  · exact hread (pre := be32Bytes h.a ++ be32Bytes h.b ++ be32Bytes h.c) (by simp) (by simp; omega) hdigest
  · exact hread (pre := be32Bytes h.a ++ be32Bytes h.b ++ be32Bytes h.c ++ be32Bytes h.d) (post := []) (by simp)
      (by simp; omega) hdigest

/-! ## Reads have no side effect -/

/-- While IDLE a read's answer depends on nothing but the access and the block, whatever was answered before. -/
theorem State.bus_read_idle {s : State} {x : Access} (hd : x.dir = .read) (hb : s.busy = false) :
    ∃ d, ∀ a, State.bus { s with answer := a } x = { s with answer := some d } := by
  have hidle : ∀ a d, State.answerRead { s with answer := a } d = { s with answer := some d } := fun a d => by
    simp [State.answerRead, hb]
  cases ht : x.target s.params with
  | bad => exact ⟨_, fun a => State.bus_bad ht⟩
  | reg r => exact ⟨.word (s.readReg r), fun a => by simp only [State.bus, ht, hd]; exact hidle a _⟩
  | byte b i => exact ⟨.byte (s.busByte b i), fun a => by simp only [State.bus, ht, hd]; exact hidle a _⟩
  | word b i => exact ⟨.word (s.busWord b i), fun a => by simp only [State.bus, ht, hd]; exact hidle a _⟩

/-- Settles O49: a read while IDLE finds the block as the one before it did. -/
theorem readsHaveNoSideEffect : Obligations.ReadsHaveNoSideEffect := by
  intro s x hd
  refine ⟨s.bus_read hd, fun hb => ?_⟩
  obtain ⟨d, hread⟩ := State.bus_read_idle hd hb
  have hfirst : s.bus x = { s with answer := some d } := hread s.answer
  rw [hfirst]
  exact ⟨hread (some d), rfl⟩

/-! ## Results and bytes stand -/

theorem byteAt_of_stored {s t : State} (h : t.stored = s.stored) (a : Nat) : t.byteAt a = s.byteAt a := by
  have hmem : t.mem = s.mem := congrArg Stored.mem h
  have hram : t.ramDraw = s.ramDraw := congrArg Stored.ramDraw h
  have hout : t.outDraw = s.outDraw := congrArg Stored.outDraw h
  simp only [State.byteAt, State.drawOf, hmem, hram, hout]

/-- The same OUT bytes are read alike, however many. -/
theorem memRead_out_congr {s t : State} (h : ∀ a, Buf.out.base ≤ a → t.byteAt a = s.byteAt a) (n : Nat) :
    t.memRead .out 0 n = s.memRead .out 0 n :=
  List.map_congr_left fun i _ => h _ (by omega)

theorem sameResults_of_stored {s t : State} (h : t.stored = s.stored) : SameResults s t := by
  have hlen : t.outLen = s.outLen := congrArg Stored.outLen h
  have hhi : t.lcntHi = s.lcntHi := congrArg Stored.lcntHi h
  have hlo : t.lcntLo = s.lcntLo := congrArg Stored.lcntLo h
  have hlcnt : t.lcnt = s.lcnt := by rw [State.lcnt, State.lcnt, hhi, hlo]
  exact ⟨congrArg Stored.err h, congrArg Stored.errInfo h, hlen, congrArg Stored.code h, hlcnt,
    hlen ▸ memRead_out_congr (fun a _ => byteAt_of_stored h a) _⟩

/-- The soft reset keeps MSG and KEY (70_reset R212). -/
theorem State.byteAt_softReset_lt (s : State) {a : Nat} (ha : a < Buf.out.base) : s.softReset.byteAt a = s.byteAt a :=
  State.byteAt_congr ha ((Memory.find_below s.mem _ a).trans (if_pos ha)) rfl

/-- Settles O56: by what a step can do to the results and the stored bytes. -/
theorem storedBytesAndResultsStand : Obligations.StoredBytesAndResultsStand := by
  intro s t hstep
  have hw : s.params.wf = true := (step_next_cases hstep).1
  cases step_stored hstep with
  | stands h =>
    exact ⟨fun _ _ => ⟨sameResults_of_stored h, fun a _ => byteAt_of_stored h a⟩,
      fun a _ hne => absurd (byteAt_of_stored h a) hne⟩
  | completes hb he w log err info r _ h =>
    subst h
    exact ⟨fun hno => absurd ⟨hb, he⟩ hno,
      fun a ha hne => absurd ((finish_sameInputs s.pop w log err info r.out r.code r.lcnt).buffers a ha) hne⟩
  | stores hb x b i bytes hx hs h =>
    subst h
    obtain ⟨⟨v, hd⟩, ho, ht, hfits⟩ := hs
    have hbelow : b.base + (i + bytes.length) ≤ Buf.out.base := Buf.base_add_le_out hw ho hfits
    have hout : ∀ a, Buf.out.base ≤ a → (s.pop.storing (b.base + i) bytes).byteAt a = s.byteAt a :=
      fun a ha => s.pop.byteAt_storing_out (.inr (by omega))
    refine ⟨fun _ _ => ⟨⟨rfl, rfl, rfl, rfl, rfl, memRead_out_congr hout _⟩, hout⟩, fun a _ hne => .inr ⟨hb, ?_⟩⟩
    have hin : b.base + i ≤ a ∧ a < b.base + i + bytes.length := by
      by_contra hcon
      exact hne (s.pop.byteAt_storing_out (by omega))
    refine ⟨x, v, b, i, hx, hd, ho, ht.imp ?_ ?_⟩
    · rintro ⟨ht, hlen⟩; exact ⟨ht, by omega⟩
    · rintro ⟨ht, hlen⟩; exact ⟨ht, by omega⟩
  | softResets v hwr hv h =>
    subst h
    exact ⟨fun _ hno => absurd (.inl ⟨v, hwr, hv⟩) hno, fun a ha hne => absurd (s.pop.byteAt_softReset_lt ha) hne⟩
  | powersOn hp h => exact ⟨fun _ hno => absurd (.inr hp) hno, fun _ _ _ => .inl hp⟩

/-! ## A write that races a command -/

/-- The block with another schedule of events to come (log 8). -/
def State.scheduled (s : State) (l : List Input) : State := { s with inputs := l }

/-- The step of a host access at the head of the schedule. -/
theorem step_access {s : State} (hw : s.params.wf = true) {x : Access} {l : List Input}
    (h : s.inputs = .access x :: l) : step s = .next ((s.scheduled l).bus x) := by
  rw [step_move hw, State.move, h]; rfl

/-- The step of the engine at the head of the schedule, while BUSY. -/
theorem step_scheduled_engine {s : State} (hw : s.params.wf = true) (hb : s.busy = true) (l : List Input) :
    step (s.scheduled (.engine :: l)) = (s.scheduled l).complete :=
  step_complete (s := s.scheduled (.engine :: l)) hw hb (.inr rfl)

theorem steps_succ {s t : State} (h : step s = .next t) (n : Nat) : steps (n + 1) s = steps n t := by
  rw [steps, h]

/-- A completion touches nothing that a host sets (60_exceptions R183, R184). -/
theorem State.complete_sameInputs {s t : State} (h : s.complete = .next t) : SameInputs s t := by
  cases hd : decode s.cmd with
  | ok i =>
    obtain ⟨w, log, err, info, r, e, _⟩ := exec_ending i s
    cases ((State.complete_ok hd).trans e).symm.trans h
    exact finish_sameInputs s w log _ _ _ _ _
  | error c =>
    cases (State.complete_error hd).symm.trans h
    exact finish_sameInputs s s.work s.log _ _ _ _ _

/-- A write to MSG_LEN while IDLE (10_state R30). -/
theorem State.write_msgLen_idle {s : State} (hb : s.busy = false) (n : Word) :
    s.bus (wr32 0x018 n) = State.answerOkay { s with msgLen := n } :=
  (s.bus_write_reg .msgLen n).trans (congrArg _ (State.ifIdle_idle hb _))

/-- A write to MSG_LEN while BUSY (20_memory R70). -/
theorem State.write_msgLen_busy {s : State} (hb : s.busy = true) (n : Word) :
    s.bus (wr32 0x018 n) = s.dropWrite.answerOkay :=
  (s.bus_write_reg .msgLen n).trans (congrArg _ (State.ifIdle_busy hb _))

/-- The write to MSG_LEN comes while the command runs, and is dropped. -/
theorem steps_dropped_write {c t : State} (hw : c.params.wf = true) (hb : c.busy = true) (n : Word)
    (ht : (c.dropWrite.answerOkay.scheduled []).complete = .next t) :
    steps 2 (c.scheduled [.access (wr32 0x018 n), .engine]) = some t := by
  have hdrop : step (c.scheduled [.access (wr32 0x018 n), .engine]) =
      .next ((c.scheduled [.engine]).bus (wr32 0x018 n)) :=
    step_access (s := c.scheduled (_ :: _)) hw rfl
  rw [State.write_msgLen_busy (s := c.scheduled [.engine]) hb] at hdrop
  have hturn := (step_scheduled_engine (s := c.dropWrite.answerOkay) hw hb []).trans ht
  exact (steps_succ hdrop 1).trans (steps_succ hturn 0)

/-- The write to MSG_LEN comes after the completion, and takes effect. -/
theorem steps_late_write {c u : State} (hw : c.params.wf = true) (hb : c.busy = true) (n : Word)
    (hu : (c.scheduled [.access (wr32 0x018 n)]).complete = .next u) :
    steps 2 (c.scheduled [.engine, .access (wr32 0x018 n)]) =
      some (State.answerOkay { u.scheduled [] with msgLen := n }) := by
  have hin : SameInputs _ u := State.complete_sameInputs hu
  have hidle : u.busy = false := (State.complete_flags hu).busy
  have hwrite := step_access (hin.params ▸ hw) hin.inputs
  rw [State.write_msgLen_idle (s := u.scheduled []) hidle] at hwrite
  exact (steps_succ ((step_scheduled_engine hw hb _).trans hu) 1).trans (steps_succ hwrite 0)

/-- Settles O57: the dropped write leaves every operand, and the late one every result. -/
theorem racingWriteHasTwoOutcomes : Obligations.RacingWriteHasTwoOutcomes := by
  intro s w n hw hb hovr
  have haccept : ∀ l, step (s.scheduled (.access (wr32 0x010 w) :: l)) = .next ((s.accept w).answerOkay.scheduled l) :=
    fun l => (step_access (s := s.scheduled (_ :: l)) hw rfl).trans
      (congrArg _ (State.issue_idle (s := s.scheduled l) hb w))
  obtain ⟨t, u, ht, hu, hres⟩ := complete_sameResults (s := (s.accept w).answerOkay.dropWrite.answerOkay.scheduled [])
    (s' := (s.accept w).answerOkay.scheduled [.access (wr32 0x018 n)])
    hw ⟨rfl, rfl, rfl, rfl, rfl, rfl, rfl, rfl, fun _ _ => rfl⟩ rfl rfl
  have hint := State.complete_sameInputs ht
  have hinu := State.complete_sameInputs hu
  refine ⟨t, State.answerOkay { u.scheduled [] with msgLen := n }, ?_, ?_, hint.msgLen, hint.ovr, rfl,
    hinu.ovr.trans hovr, ?_⟩
  · exact (steps_succ (haccept _) 2).trans (steps_dropped_write (c := (s.accept w).answerOkay) hw rfl n ht)
  · exact (steps_succ (haccept _) 2).trans (steps_late_write (c := (s.accept w).answerOkay) hw rfl n hu)
  · exact ⟨hres.err, hres.errInfo, hres.outLen, hres.code, hres.lcnt, hres.out⟩

/-! ## GETCODE and the time of its acceptance -/

/-- The code of a timestamp not before the epoch (44_totp R161, R162). -/
theorem totp_eq {k : List Byte} {T T0 c : DWord} {X : Word} {n : BitVec 4} (hX : X ≠ 0) (h : T0 ≤ T) (h1 : 1 ≤ n)
    (h9 : n ≤ 9) (hc : c = BitVec.ofNat 64 ((T.toNat - T0.toNat) / X.toNat)) :
    totp k T T0 X n = .ok (c, ⟨codeOf k c n.toNat, decimal (codeOf k c n.toNat) n.toNat⟩) := by
  simp only [totp, totpCounter_eq hX h, ← hc, hotp_eq h1 h9]

theorem totp_early {k : List Byte} {T T0 : DWord} {X : Word} {n : BitVec 4} (hX : X ≠ 0) (h : T < T0) :
    totp k T T0 X n = .error ⟨.timeRange, 2⟩ := by
  simp only [totp, totpCounter, hX, h, if_true, if_false]

/-- GETCODE's body once its text has decoded: the code of the sampled time, or the error that gives (44_totp R163). -/
theorem State.getcodeBody_eq {s : State} {d : Bool} {text k : List Byte} {src : BitVec 2} (ht : s.TextIs d text src)
    (hk : base32Decode text src = .ok k) :
    s.getcodeBody d = (totp k s.now s.epoch s.timeStep s.codeLen).map fun p => p.2.result p.1 := by
  simp only [State.getcodeBody, State.getcodeText_eq ht, hk, bind, Except.bind]
  cases totp k s.now s.epoch s.timeStep s.codeLen <;> rfl

/-- While a GETCODE runs, its body is that of the level on NOW and the operands at its acceptance (20_memory R69). -/
theorem WhileBusy.getcodeBody_eq {s t : State} {d : Bool} {text k : List Byte} {src : BitVec 2} (hb : s.busy = false)
    (hw : s.params.wf = true) (ht : s.TextIs d text src) (hk : base32Decode text src = .ok k)
    (h : WhileBusy (s.issue (encode (.getcode d))) t) :
    t.pop.getcodeBody d = (totp k s.nowIn s.epoch s.timeStep s.codeLen).map fun p => p.2.result p.1 := by
  obtain ⟨_, hnow, _⟩ := h.stands
  rw [State.issue_idle hb] at h hnow
  have hsampled : (s.accept (encode (.getcode d))).answerOkay.now = s.nowIn := by cases d <;> rfl
  have hbody := State.getcodeBody_eq (s := (s.accept (encode (.getcode d))).answerOkay) ht hk
  rw [hsampled] at hbody
  exact ((h.agrees.trans t.pop_agrees).getcodeBody_eq hw hnow d).trans hbody

/-- The step that completes a GETCODE. -/
theorem WhileBusy.step_getcode {s t : State} {d : Bool} (hb : s.busy = false) (hw : s.params.wf = true)
    (h : WhileBusy (s.issue (encode (.getcode d))) t) (he : t.EngineNext) :
    step t = .next (State.concludeCaught { t.pop with work := t.pop.workAfterGetcode d } (t.pop.getcodeBody d)) := by
  obtain ⟨hcmd, _, hparams⟩ := h.stands
  rw [State.issue_idle hb] at hcmd hparams
  have hdec : decode t.pop.cmd = .ok (.getcode d) := by
    rw [show t.pop.cmd = encode (.getcode d) from hcmd]
    exact (Laws.RoundTrip.getcode d).2
  exact (step_complete (hparams ▸ hw) h.busy.2 he).trans (State.complete_ok hdec)

/-- Settles O58: the completion reads the time sampled at acceptance, and operands that stand. -/
theorem getcodeUsesTheTimeOfItsAcceptance : Obligations.GetcodeUsesTheTimeOfItsAcceptance := by
  intro s t dflt text k src c hw hb ht hk hX hrun he
  rw [hrun.step_getcode hb hw he, hrun.getcodeBody_eq hb hw ht hk]
  refine ⟨fun hearly => ?_, fun h1 h9 hlate hc => ?_⟩
  · rw [totp_early hX hearly]
    obtain ⟨u, hu, hcaught⟩ := concludeCaught_error t.pop (t.pop.workAfterGetcode dflt) ⟨.timeRange, 2⟩
    exact ⟨u, congrArg _ hu, hcaught⟩
  · rw [totp_eq hX hlate h1 h9 hc]
    obtain ⟨u, hu, hin, hdone, hout⟩ := concludeCaught_ok t.pop (t.pop.workAfterGetcode dflt)
      (Otp.result ⟨codeOf k c s.codeLen.toNat, decimal (codeOf k c s.codeLen.toNat) s.codeLen.toNat⟩ c)
    simp only [Otp.result, decimal_length] at hdone
    exact ⟨u, congrArg _ hu, hin, hdone, hout⟩

/-! ## Acceptance -/

/-- Settles O43: the write latches its word, which the completion then decodes. -/
theorem acceptanceLatchesAnyWord : Obligations.AcceptanceLatchesAnyWord := by
  intro s v hb
  refine ⟨_, State.issue_idle hb v, rfl, rfl, rfl, ?_, ?_, fun _ => rfl, fun i hi => State.complete_ok hi,
    fun c hc => ?_⟩
  · constructor <;> intros <;> rfl
  · constructor <;> rfl
  · exact (conclude_error (s.accept v).answerOkay _ ⟨.illegalCmd, v⟩).imp fun u hu =>
      ⟨(State.complete_error hc).trans (congrArg _ hu.1), hu.2⟩

/-! ## Reads while BUSY -/

/-- Settles O50: no read of an input goes through a draw. -/
theorem busyReadsOfInputsAreExact : Obligations.BusyReadsOfInputsAreExact := by
  intro s hb
  obtain ⟨e, l, hstatus, _⟩ := s.readReg_status
  obtain ⟨hbusy, hdone, hovr, hirq, _, _⟩ := s.statusWord_fields e l
  have hctrl : s.readReg .ctrl = if s.ie then 0x00000001 else 0x00000000 := by
    simp only [State.readReg]
    cases s.ie <;> rfl
  have hcfg : s.readReg .cfg = BitVec.ofNat 32 s.codeLen.toNat := (BitVec.ofNat_toNat 32 s.codeLen).symm
  rw [hstatus]
  exact ⟨rfl, rfl, hctrl, rfl, rfl, rfl, hcfg, rfl, rfl, rfl, rfl, rfl, rfl, rfl, rfl, rfl, rfl, hbusy.trans hb, hdone,
    hovr, hirq, fun hw b i ho =>
      ⟨fun hi => State.read_byte_held hw (.inl ho) hi, fun h4 hi => State.read_word_held hw (.inl ho) h4 hi⟩⟩

end Sys2Proof.Machine

/-! PROOF. The statements of 30_encoding: the table of command words and its decoder (R91 to R95), the completion of an
illegal word, and what the pseudo-instructions LOAD, SET64 and WAIT do through the bus (R98). -/

namespace Sys2Proof

/-! ## The rows of the table -/

/-- A mask that leaves out bit `k` alone fixes every other bit of the word. -/
theorem and_not_twoPow_eq_iff {w m : Word} {k : Nat} (hm : m.getLsbD k = false) :
    w &&& ~~~(BitVec.twoPow 32 k) = m ↔ w = m ||| if w.getLsbD k then BitVec.twoPow 32 k else 0#32 := by
  rw [← BitVec.and_twoPow]
  constructor
  · rintro rfl
    rw [← BitVec.and_or_distrib_left, BitVec.or_comm, BitVec.or_not_self, BitVec.and_allOnes]
  · intro h
    have hmask : m &&& ~~~(BitVec.twoPow 32 k) = m := by
      apply BitVec.eq_of_getLsbD_eq
      intro i hi
      by_cases hik : i = k
      · subst hik; simp [hm]
      · simp [hi, hik]
    rw [h, BitVec.and_or_distrib_right, hmask]
    simp [BitVec.and_assoc]

/-- The rows of SHA1, HMAC and B32DEC, whose mask is every bit. -/
theorem and_allOnes_eq_iff {w m : Word} : w &&& 0xFFFFFFFF = m ↔ w = m := by
  rw [show (0xFFFFFFFF : Word) = BitVec.allOnes 32 from rfl, BitVec.and_allOnes]

/-- The row of HOTP. -/
theorem hotp_row_iff {w : Word} : w &&& 0xFFFFFEFF = 0x00000004 ↔ w = encode (.hotp (w.getLsbD 8)) := by
  refine (and_not_twoPow_eq_iff (k := 8) rfl).trans (iff_of_eq (congrArg (w = ·) ?_))
  cases w.getLsbD 8 <;> rfl

/-- The row of TOTP. -/
theorem totp_row_iff {w : Word} : w &&& 0xFFFFFEFF = 0x00000005 ↔ w = encode (.totp (w.getLsbD 8)) := by
  refine (and_not_twoPow_eq_iff (k := 8) rfl).trans (iff_of_eq (congrArg (w = ·) ?_))
  cases w.getLsbD 8 <;> rfl

/-- The row of GETCODE. -/
theorem getcode_row_iff {w : Word} : w &&& 0xFFFFFDFF = 0x00000006 ↔ w = encode (.getcode (w.getLsbD 9)) := by
  refine (and_not_twoPow_eq_iff (k := 9) rfl).trans (iff_of_eq (congrArg (w = ·) ?_))
  cases w.getLsbD 9 <;> rfl

/-! ## Decoding and encoding -/

/-- The round trip of every command, from those of the six rows. -/
theorem decode_encode (i : Instr) : decode (encode i) = .ok i := by
  cases i with
  | sha1 => exact Laws.RoundTrip.sha1.2
  | hmac => exact Laws.RoundTrip.hmac.2
  | b32dec => exact Laws.RoundTrip.b32dec.2
  | hotp b32 => exact (Laws.RoundTrip.hotp b32).2
  | totp b32 => exact (Laws.RoundTrip.totp b32).2
  | getcode dflt => exact (Laws.RoundTrip.getcode dflt).2

/-- The decoder reads a command from its own word alone: each branch's row gives the word back. -/
theorem eq_encode_of_decode {w : Word} {i : Instr} (h : decode w = .ok i) : w = encode i := by
  unfold decode at h
  split_ifs at h with hsha1 hhmac hb32dec hhotp htotp hgetcode <;> cases h
  · exact and_allOnes_eq_iff.1 hsha1
  · exact and_allOnes_eq_iff.1 hhmac
  · exact and_allOnes_eq_iff.1 hb32dec
  · exact hotp_row_iff.1 hhotp
  · exact totp_row_iff.1 htotp
  · exact getcode_row_iff.1 hgetcode

theorem decode_eq_ok_iff {w : Word} {i : Instr} : decode w = .ok i ↔ w = encode i :=
  ⟨eq_encode_of_decode, fun h => h ▸ decode_encode i⟩

/-- Settles O1: the decoder's branches are the rows of the table, and each row gives back the words of its commands. -/
theorem decodeAndEncodeAgree : Obligations.DecodeAndEncodeAgree :=
  fun _ _ => decode_eq_ok_iff.trans eq_comm

/-- Settles O2: a word is legal as the word of one command, and in a row as the word of one of the row's commands. -/
theorem legalWordsAreExactlyNine : Obligations.LegalWordsAreExactlyNine := by
  intro w
  have hword : ∀ i, decode w = .ok i ↔ w = encode i := fun _ => decode_eq_ok_iff
  refine ⟨hword .sha1, hword .hmac, hword .b32dec, hword (.hotp false), hword (.hotp true), hword (.totp false),
    hword (.totp true), hword (.getcode false), hword (.getcode true),
    and_allOnes_eq_iff.trans (hword .sha1).symm, and_allOnes_eq_iff.trans (hword .hmac).symm,
    and_allOnes_eq_iff.trans (hword .b32dec).symm, ?_, ?_, ?_⟩
  · simp only [hword]
    exact ⟨fun h => ⟨_, hotp_row_iff.1 h⟩, by rintro ⟨b, rfl⟩; cases b <;> rfl⟩
  · simp only [hword]
    exact ⟨fun h => ⟨_, totp_row_iff.1 h⟩, by rintro ⟨b, rfl⟩; cases b <;> rfl⟩
  · simp only [hword]
    exact ⟨fun h => ⟨_, getcode_row_iff.1 h⟩, by rintro ⟨d, rfl⟩; cases d <;> rfl⟩

/-- Settles O3: each word is that of its command. -/
theorem writtenOutWordsDecode : Obligations.WrittenOutWordsDecode :=
  ⟨decode_encode .sha1, decode_encode .hmac, decode_encode .b32dec, decode_encode (.hotp true),
    decode_encode (.totp false), decode_encode (.getcode true)⟩

/-! ## The illegal words -/

/-- A word is its fields put together (30_encoding R91). -/
theorem CW.toWord_ofWord (w : Word) : (CW.ofWord w).toWord = w := by
  have hflag : ∀ k, BitVec.ofBool (w.getLsbD k) = w.extractLsb' k 1 := fun k => by
    apply BitVec.eq_of_getLsbD_eq
    simp
  simp only [CW.toWord, CW.ofWord, hflag]
  rw [BitVec.extractLsb'_append_extractLsb'_eq_extractLsb' (by rfl),
    BitVec.extractLsb'_append_extractLsb'_eq_extractLsb' (by rfl),
    BitVec.extractLsb'_append_extractLsb'_eq_extractLsb' (by rfl)]
  exact BitVec.extractLsb'_eq_self

/-- A word is a command's exactly when its fields are. -/
theorem eq_encode_iff_fields {w : Word} {i : Instr} : w = encode i ↔ CW.ofWord w = i.fields := by
  constructor
  · rintro rfl; exact CW.ofWord_encode i
  · intro h; rw [encode, ← h, CW.toWord_ofWord]

/-- The five classes of 30_encoding R95. -/
def CW.Listed (c : CW) : Prop :=
  c.op = 0x00 ∨ 0x07 ≤ c.op ∨ c.rsv ≠ 0 ∨
    (c.b32 = true ∧ c.op ∈ [0x01, 0x02, 0x03, (0x06 : BitVec 8)]) ∨
    (c.dflt = true ∧ c.op ∈ [0x01, 0x02, 0x03, 0x04, (0x05 : BitVec 8)])

theorem Instr.fields_not_listed (i : Instr) : ¬ i.fields.Listed := by
  cases i <;> simp [CW.Listed, Instr.fields]

/-- Fields in none of the classes have one of the six operations, and no flag that the operation does not take. -/
theorem CW.exists_fields_of_not_listed {c : CW} (h : ¬ c.Listed) : ∃ i : Instr, i.fields = c := by
  obtain ⟨op, b32, dflt, rsv⟩ := c
  simp only [CW.Listed, not_or, not_and, not_not] at h
  obtain ⟨hzero, hhigh, hrsv, hb32, hdflt⟩ := h
  have hop : op = 0x01 ∨ op = 0x02 ∨ op = 0x03 ∨ op = 0x04 ∨ op = 0x05 ∨ op = 0x06 := by bv_omega
  subst hrsv
  rcases hop with rfl | rfl | rfl | rfl | rfl | rfl
  · exact ⟨.sha1, by simp_all [Instr.fields]⟩
  · exact ⟨.hmac, by simp_all [Instr.fields]⟩
  · exact ⟨.b32dec, by simp_all [Instr.fields]⟩
  · exact ⟨.hotp b32, by simp_all [Instr.fields]⟩
  · exact ⟨.totp b32, by simp_all [Instr.fields]⟩
  · exact ⟨.getcode dflt, by simp_all [Instr.fields]⟩

/-- Settles O4: a word decodes exactly when its fields are a command's, and fields are a command's exactly when they are
in none of the classes. -/
theorem illegalWordsAreTheListedClasses : Obligations.IllegalWordsAreTheListedClasses := by
  intro w
  show (∃ c, decode w = .error c) ↔ (CW.ofWord w).Listed
  constructor
  · rintro ⟨c, hc⟩
    by_contra hlisted
    obtain ⟨i, hi⟩ := CW.exists_fields_of_not_listed hlisted
    cases hc.symm.trans (decode_eq_ok_iff.2 (eq_encode_iff_fields.2 hi.symm))
  · intro hlisted
    cases hd : decode w with
    | error c => exact ⟨c, rfl⟩
    | ok i =>
      rw [eq_encode_iff_fields.1 (decode_eq_ok_iff.1 hd)] at hlisted
      exact absurd hlisted i.fields_not_listed

end Sys2Proof

namespace Sys2Proof.Machine

/-! ## The completion of an illegal word -/

/-- Settles O6: the word accepted is still the one latched, and its completion is the error record. -/
theorem illegalWordCompletesWithItsWord : Obligations.IllegalWordCompletesWithItsWord := by
  intro s t v c hw hb hc hrun he
  obtain ⟨hcmd, _, hparams⟩ := hrun.stands
  rw [State.issue_idle hb] at hcmd hparams
  have hv : t.pop.cmd = v := hcmd
  obtain ⟨u, hu, hfailed⟩ := conclude_error t.pop t.pop.work ⟨.illegalCmd, v⟩
  refine ⟨u, ?_, hfailed⟩
  rw [step_complete (hparams ▸ hw) hrun.busy.2 he, State.complete_error (hv ▸ hc), hv]
  exact congrArg _ hu

/-! ## LOAD -/

theorem Memory.storeBytes_append (bs cs : List Byte) (m : Memory) (a : Nat) :
    Memory.storeBytes m a (bs ++ cs) = Memory.storeBytes (Memory.storeBytes m a bs) (a + bs.length) cs := by
  induction bs generalizing m a with
  | nil => rfl
  | cons b bs ih =>
    rw [List.cons_append, Memory.storeBytes, ih, List.length_cons, Nat.add_right_comm, Nat.add_assoc]
    rfl

/-- Host writes at adjacent offsets store as one write of all their bytes. -/
theorem State.storing_storing (s : State) (a : Nat) (bs cs : List Byte) :
    (s.storing a bs).storing (a + bs.length) cs = s.storing a (bs ++ cs) :=
  (congrArg (fun m => State.answerOkay { s with mem := m }) (Memory.storeBytes_append bs cs s.mem a)).symm

section Load

variable {b : Buf} (ho : b ≠ .out)
include ho

/-- The 1-byte writes of `LOAD` are one store. Both sides are answered OKAY, because no byte may be written at all. -/
theorem foldl_wr8 (bytes : List Byte) {s : State} {i : Nat} (hw : s.params.wf = true) (hb : s.busy = false)
    (hfit : i + bytes.length ≤ b.size s.params) :
    ((bytes.mapIdx fun j c => wr8 (b.base + i + j) c).foldl State.bus s).answerOkay = s.storing (b.base + i) bytes := by
  induction bytes generalizing s i with
  | nil => rfl
  | cons c cs ih =>
    rw [List.length_cons] at hfit
    have hfirst : s.bus (wr8 (b.base + i) c) = s.storing (b.base + i) [c] := by
      refine (State.bus_write_byte_idle hw hb ho (by omega) _).trans ?_
      rw [BitVec.setWidth_setWidth_of_le _ (by decide), BitVec.setWidth_eq]
    have hrest := ih (s := s.storing (b.base + i) [c]) (i := i + 1) hw hb
      (show i + 1 + cs.length ≤ b.size s.params by omega)
    have hoffset : ∀ j, b.base + i + (j + 1) = b.base + (i + 1) + j := fun j => by omega
    simp only [List.mapIdx_cons, List.foldl_cons, Nat.add_zero, hfirst, hoffset]
    exact hrest.trans (s.storing_storing _ [c] cs)

/-- The data writes of `LOAD` from a word-aligned index store all the bytes (30_encoding R98). -/
theorem foldl_loadData (a : Nat) (bytes : List Byte) {s : State} {i : Nat} (hw : s.params.wf = true)
    (hb : s.busy = false) (ha : a = b.base + i) (h4 : i % 4 = 0) (hfit : i + bytes.length ≤ b.size s.params) :
    ((loadData a bytes).foldl State.bus s).answerOkay = s.storing a bytes := by
  induction a, bytes using loadData.induct generalizing s i with
  | case1 a b0 b1 b2 b3 t ih =>
    subst ha
    simp only [List.length_cons] at hfit
    have hfirst : s.bus (wr32 (b.base + i) (be32 b0 b1 b2 b3)) = s.storing (b.base + i) [b0, b1, b2, b3] := by
      rw [← be32Bytes_be32]
      exact State.bus_write_word_idle hw hb ho h4 (by omega) _
    have hrest := ih (s := s.storing (b.base + i) [b0, b1, b2, b3]) (i := i + 4) hw hb (Nat.add_assoc ..) (by omega)
      (show i + 4 + t.length ≤ b.size s.params by omega)
    rw [loadData, List.foldl_cons, hfirst]
    exact hrest.trans (s.storing_storing _ [b0, b1, b2, b3] t)
  | case2 a t hshort =>
    subst ha
    rw [loadData]
    · exact foldl_wr8 ho t hw hb hfit
    · exact hshort

end Load

/-- Bytes stored from a buffer's first on are what the buffer then begins with. -/
theorem State.memRead_storing (s : State) (b : Buf) (bytes : List Byte) :
    (s.storing b.base bytes).memRead b 0 bytes.length = bytes := by
  refine List.ext_getElem (State.memRead_length ..) fun k _ hk => ?_
  simp only [State.memRead, List.getElem_map, List.getElem_range, Nat.add_zero]
  rw [State.byteAt_storing_in s b.base hk, List.getD_eq_getElem _ _ hk]

/-- A write to KEY_LEN while IDLE (10_state R31). -/
theorem State.write_keyLen_idle {s : State} (hb : s.busy = false) (n : Word) :
    s.bus (wr32 0x01C n) = State.answerOkay { s with keyLen := n } :=
  (s.bus_write_reg .keyLen n).trans (congrArg _ (State.ifIdle_idle hb _))

section LoadOp

variable {s : State} (hw : s.params.wf = true) (hb : s.busy = false) {bytes : List Byte}
include hw hb

/-- `LOAD MSG` (30_encoding R98). -/
theorem foldl_loadOp_msg (hfit : bytes.length ≤ s.params.msgBytes) :
    (loadOp .msg bytes).foldl State.bus s =
      { s.storing Buf.msg.base bytes with msgLen := BitVec.ofNat 32 bytes.length } := by
  have hdata := foldl_loadData (b := .msg) (i := 0) nofun Buf.msg.base bytes hw hb rfl rfl
    (by rwa [Nat.zero_add])
  have hidle : ((loadData Buf.msg.base bytes).foldl State.bus s).busy = false := (congrArg State.busy hdata).trans hb
  rw [loadOp, List.foldl_append]
  refine (State.write_msgLen_idle hidle _).trans ?_
  exact congrArg (fun u : State => { u with msgLen := BitVec.ofNat 32 bytes.length }) hdata

/-- `LOAD KEY` (30_encoding R98). -/
theorem foldl_loadOp_key (hfit : bytes.length ≤ s.params.keyBytes) :
    (loadOp .key bytes).foldl State.bus s =
      { s.storing Buf.key.base bytes with keyLen := BitVec.ofNat 32 bytes.length } := by
  have hdata := foldl_loadData (b := .key) (i := 0) nofun Buf.key.base bytes hw hb rfl rfl
    (by rwa [Nat.zero_add])
  have hidle : ((loadData Buf.key.base bytes).foldl State.bus s).busy = false := (congrArg State.busy hdata).trans hb
  rw [loadOp, List.foldl_append]
  refine (State.write_keyLen_idle hidle _).trans ?_
  exact congrArg (fun u : State => { u with keyLen := BitVec.ofNat 32 bytes.length }) hdata

end LoadOp

/-! ## SET64 -/

/-- `SET64` is a write to the LO register and one to the HI register after it (30_encoding R98). -/
theorem foldl_set64Op (s : State) {lo hi : Reg} (h : hi.offset = lo.offset + 4) (v : DWord) :
    (set64Op lo.offset v).foldl State.bus s =
      ((s.writeReg lo (v.extractLsb' 0 32)).answerOkay.writeReg hi (v.extractLsb' 32 32)).answerOkay := by
  simp only [set64Op, wr32, ← h, List.foldl_cons, List.foldl_nil, State.bus_write_reg]

section Set64

variable {s : State} (hb : s.busy = false) (v : DWord)
include hb

theorem foldl_set64Op_epoch :
    (set64Op 0x028 v).foldl State.bus s =
      { s with epochLo := v.extractLsb' 0 32, epochHi := v.extractLsb' 32 32, answer := some .okay } := by
  refine (foldl_set64Op s (lo := .epochLo) (hi := .epochHi) rfl v).trans ?_
  simp [State.writeReg, State.ifIdle, hb, State.answerOkay]

theorem foldl_set64Op_time :
    (set64Op 0x030 v).foldl State.bus s =
      { s with timeLo := v.extractLsb' 0 32, timeHi := v.extractLsb' 32 32, answer := some .okay } := by
  refine (foldl_set64Op s (lo := .timeLo) (hi := .timeHi) rfl v).trans ?_
  simp [State.writeReg, State.ifIdle, hb, State.answerOkay]

theorem foldl_set64Op_counter :
    (set64Op 0x038 v).foldl State.bus s =
      { s with cntLo := v.extractLsb' 0 32, cntHi := v.extractLsb' 32 32, answer := some .okay } := by
  refine (foldl_set64Op s (lo := .cntLo) (hi := .cntHi) rfl v).trans ?_
  simp [State.writeReg, State.ifIdle, hb, State.answerOkay]

end Set64

/-- Settles O51: LOAD is one store and the write of a length, SET64 the writes of a pair's two halves. -/
theorem loadAndSet64DoWhatTheySay : Obligations.LoadAndSet64DoWhatTheySay := by
  refine ⟨fun s bytes hw hb hfit => ?_, fun s bytes hw hb hfit => ?_, fun s v hb => ?_⟩
  · exact ⟨_, foldl_loadOp_msg hw hb hfit, s.memRead_storing .msg bytes, rfl, fun a ha => s.byteAt_storing_out ha⟩
  · exact ⟨_, foldl_loadOp_key hw hb hfit, s.memRead_storing .key bytes, rfl, fun a ha => s.byteAt_storing_out ha⟩
  · rw [foldl_set64Op_epoch hb, foldl_set64Op_time hb, foldl_set64Op_counter hb]
    have hpair := extract_append_extract v
    exact ⟨_, _, rfl, rfl, rfl, rfl, rfl, hpair, hpair, hpair⟩

/-! ## WAIT -/

theorem hostTurn_wait (s : State) (p : List HostOp) :
    hostTurn s (.wait :: p) = (if s.busy = true then .wait :: p else p, s.answerRead (.word (s.readReg .status))) := by
  have hbit : (s.answerRead (.word (s.readReg .status))).readBit0 = s.busy := s.readReg_status_busy
  simp only [hostTurn, rd32_status, hbit]

/-- While BUSY the reads of a WAIT take draws and give answers, and leave everything else, however many they are. -/
theorem runProgram_polls (n : Nat) (p : List HostOp) {s : State} (hb : s.busy = true) :
    ∃ a d, runProgram (List.replicate n .host) (.wait :: p) s =
      some (.wait :: p, { s with answer := a, draws := d }) := by
  induction n generalizing s with
  | zero => exact ⟨_, _, rfl⟩
  | succ n ih =>
    obtain ⟨a, d, h⟩ := ih (s := s.answerRead (.word (s.readReg .status))) hb
    refine ⟨a, d, ?_⟩
    rw [List.replicate_succ, runProgram, hostTurn_wait, if_pos hb]
    exact h

theorem SameResults.trans {s t u : State} (h : SameResults s t) (h' : SameResults t u) : SameResults s u where
  err := h'.err.trans h.err
  errInfo := h'.errInfo.trans h.errInfo
  outLen := h'.outLen.trans h.outLen
  code := h'.code.trans h.code
  lcnt := h'.lcnt.trans h.lcnt
  out := h'.out.trans h.out

/-- A read of STATUS while IDLE changes nothing that the next one reads. -/
theorem State.readReg_status_answerRead {s : State} (hb : s.busy = false) (d : Answer) :
    (s.answerRead d).readReg .status = s.readReg .status := by
  have hidle : s.answerRead d = { s with answer := some d } := by simp [State.answerRead, hb]
  rw [hidle]
  rfl

/-- Settles O59: the polls leave what the command reads, so its completion is the same; the next read then finds the
block IDLE. -/
theorem waitPollsUntilBusyReadsZero : Obligations.WaitPollsUntilBusyReadsZero := by
  refine ⟨fun s p => (hostTurn_wait s p).trans (congrArg _ (rd32_status s).symm), fun s p n hw hb => ?_⟩
  obtain ⟨a, d, hpolls⟩ := runProgram_polls n p hb
  obtain ⟨r, r', hr, hr', hres⟩ := complete_sameResults (s := s) (s' := { s with answer := a, draws := d }) hw
    ⟨rfl, rfl, rfl, rfl, rfl, rfl, rfl, rfl, fun _ _ => rfl⟩ rfl rfl
  have hflags := State.complete_flags hr'
  have hturn : State.event { s with answer := a, draws := d } .engine = .next r' :=
    (State.engineTurn_busy (s := { s with answer := a, draws := d }) hb).trans hr'
  refine ⟨_, r'.answerRead (.word (r'.readReg .status)), hpolls, hb, ?_, ?_, hflags.busy, hflags.done, ?_, r, r', hr,
    hr', hres, hres.trans (sameResults_of_stored rfl)⟩
  · constructor <;> intros <;> rfl
  · rw [runProgram_append, hpolls]
    simp only [Option.bind_some, runProgram, hturn, hostTurn_wait, hflags.busy, Bool.false_eq_true, if_false]
  · rw [State.readReg_status_answerRead hflags.busy]; rfl

end Sys2Proof.Machine

namespace Sys2Proof.Machine

/-! ## SHA1 and its unit -/

/-- Settles O11: the message fits, so SHA1 concludes with its digest. -/
theorem sha1GivesTheDigest : Obligations.Sha1GivesTheDigest :=
  fun _ hl => exec_sha1_fits hl

/-! ### Padding -/

@[simp] theorem blocksOf_length (n : Nat) (p : List Byte) : (blocksOf n p).length = n := by
  induction n generalizing p with
  | zero => rfl
  | succ n ih => simp [blocksOf, ih]

/-- `n` blocks hold the first `64 n` bytes, in order. -/
theorem blocksOf_flatten (n : Nat) (p : List Byte) : (blocksOf n p).flatten = p.take (64 * n) := by
  induction n generalizing p with
  | zero => simp [blocksOf]
  | succ n ih => rw [blocksOf, List.flatten_cons, ih, Nat.mul_succ, Nat.add_comm, List.take_add]

theorem length_of_mem_blocksOf {n : Nat} {p B : List Byte} (hp : 64 * n ≤ p.length) (hB : B ∈ blocksOf n p) :
    B.length = 64 := by
  induction n generalizing p with
  | zero => cases hB
  | succ n ih =>
    rcases List.mem_cons.1 hB with rfl | hrest
    · rw [List.length_take]; omega
    · exact ih (by rw [List.length_drop]; omega) hrest

theorem pad_length (m : List Byte) : (pad m).length = 64 * sha1Blocks m.length := by
  simp only [pad, sha1Blocks, List.length_append, List.length_replicate, List.length_singleton, be64Bytes_length]
  omega

theorem pad_length_div (m : List Byte) : (pad m).length / 64 = sha1Blocks m.length := by
  rw [pad_length, Nat.mul_div_cancel_left _ (by decide)]

/-- Settles O25: the zeros fill up to 56 bytes of the last block and are fewer than 64, so no smaller number does. -/
theorem paddingFillsWholeBlocks : Obligations.PaddingFillsWholeBlocks := by
  intro m
  rw [pad_length_div]
  refine ⟨(55 + (64 - m.length % 64)) % 64, rfl, by omega, fun z' hz' => by omega, pad_length m, blocksOf_length _ _,
    ?_, fun B hB => length_of_mem_blocksOf (pad_length m).ge hB⟩
  rw [blocksOf_flatten, ← pad_length, List.take_length]

/-! ### The message schedule -/

/-- The word at `i` that the recurrence makes of the words before it (40_sha1 R113). -/
def scheduleWord (W : List Word) (i : Nat) : Word :=
  rotl32 (W.getD (i - 3) 0 ^^^ W.getD (i - 8) 0 ^^^ W.getD (i - 14) 0 ^^^ W.getD (i - 16) 0) 1

/-- The schedule after `n` steps of the recurrence: its first `16 + n` words (40_sha1 R113). -/
def schedulePrefix (B : List Byte) (n : Nat) : List Word :=
  (List.range' 16 n).foldl (fun W i => W ++ [scheduleWord W i]) ((List.range 16).map fun i => be32At B (4 * i))

theorem schedule_eq_schedulePrefix (B : List Byte) : schedule B = schedulePrefix B 64 := rfl

theorem schedulePrefix_succ (B : List Byte) (n : Nat) :
    schedulePrefix B (n + 1) = schedulePrefix B n ++ [scheduleWord (schedulePrefix B n) (16 + n)] := by
  simp only [schedulePrefix, List.range'_1_concat, List.foldl_append, List.foldl_cons, List.foldl_nil]

@[simp] theorem schedulePrefix_length (B : List Byte) (n : Nat) : (schedulePrefix B n).length = 16 + n := by
  induction n with
  | zero => rfl
  | succ n ih => rw [schedulePrefix_succ, List.length_append, ih, List.length_singleton, Nat.add_assoc]

/-- No step changes a word that is already there. -/
theorem schedulePrefix_getD_of_le (B : List Byte) {n k i : Nat} (hi : i < 16 + n) (h : n ≤ k) :
    (schedulePrefix B k).getD i 0 = (schedulePrefix B n).getD i 0 := by
  induction k, h using Nat.le_induction with
  | base => rfl
  | succ k hk ih => rw [schedulePrefix_succ, List.getD_append _ _ _ _ (by simp; omega), ih]

/-- The recurrence at `16 + n` reads only words that stand after `n` steps. -/
theorem scheduleWord_schedulePrefix_of_le (B : List Byte) {n k : Nat} (h : n ≤ k) :
    scheduleWord (schedulePrefix B k) (16 + n) = scheduleWord (schedulePrefix B n) (16 + n) := by
  have hstands : ∀ d, 0 < d → (schedulePrefix B k).getD (16 + n - d) 0 = (schedulePrefix B n).getD (16 + n - d) 0 :=
    fun d hd => schedulePrefix_getD_of_le B (by omega) h
  simp only [scheduleWord, hstands 3, hstands 8, hstands 14, hstands 16, Nat.ofNat_pos]

theorem schedulePrefix_getD_input (B : List Byte) {n i : Nat} (hi : i < 16) :
    (schedulePrefix B n).getD i 0 = be32At B (4 * i) := by
  have hzero : (schedulePrefix B 0)[i]? = some (be32At B (4 * i)) := by
    simp [schedulePrefix, hi]
  rw [schedulePrefix_getD_of_le B hi n.zero_le, List.getD_eq_getElem?_getD, hzero, Option.getD_some]

/-- The word step `n` appends is the recurrence's in every longer schedule too. -/
theorem schedulePrefix_getD_recurrence (B : List Byte) {n k : Nat} (h : n < k) :
    (schedulePrefix B k).getD (16 + n) 0 = scheduleWord (schedulePrefix B k) (16 + n) := by
  calc (schedulePrefix B k).getD (16 + n) 0
      = (schedulePrefix B (n + 1)).getD (16 + n) 0 := schedulePrefix_getD_of_le B (by omega) h
    _ = scheduleWord (schedulePrefix B n) (16 + n) := by
      rw [schedulePrefix_succ, List.getD_append_right _ _ _ _ (by simp), schedulePrefix_length, Nat.sub_self,
        List.getD_cons_zero]
    _ = scheduleWord (schedulePrefix B k) (16 + n) := (scheduleWord_schedulePrefix_of_le B h.le).symm

/-- Settles O26: a word stands from the step that appends it, so the finished schedule satisfies the recurrence. -/
theorem scheduleFollowsItsRecurrence : Obligations.ScheduleFollowsItsRecurrence := by
  intro B
  rw [schedule_eq_schedulePrefix]
  refine ⟨schedulePrefix_length B 64, fun i hi => schedulePrefix_getD_input B hi, fun i hlo hhi => ?_⟩
  obtain ⟨n, rfl⟩ := Nat.exists_eq_add_of_le hlo
  exact schedulePrefix_getD_recurrence B (by omega)

end Sys2Proof.Machine

namespace Sys2Proof.Machine

/-! ## HMAC and its unit -/

/-- HMAC with a message and a key that fit completes with their HMAC-SHA1 in OUT (41_hmac R131). -/
theorem exec_hmac_fits {s : State} (hm : s.msgLen.toNat ≤ s.params.msgBytes) (hk : s.keyLen.toNat ≤ s.params.keyBytes) :
    ∃ t, exec .hmac s = .next t ∧ SameInputs s t ∧ Completed t 0 s.log 0 20 0 0 ∧
      t.OutHolds (hmacSha1 (s.memRead .key 0 s.keyLen.toNat) (s.memRead .msg 0 s.msgLen.toNat)) := by
  have hbody : s.hmacBody =
      .ok ⟨hmacSha1 (s.memRead .key 0 s.keyLen.toNat) (s.memRead .msg 0 s.msgLen.toNat), 0, 0⟩ := by
    simp only [State.hmacBody, State.message_eq hm, State.keyBytes_eq hk, bind, Except.bind]
  obtain ⟨t, ht, hrest⟩ := conclude_ok s s.workAfterHmac
    ⟨hmacSha1 (s.memRead .key 0 s.keyLen.toNat) (s.memRead .msg 0 s.msgLen.toNat), 0, 0⟩
  rw [← hbody] at ht
  exact ⟨t, congrArg _ ht, hrest⟩

/-- Settles O12: the message and the key fit, so HMAC concludes with their HMAC-SHA1. -/
theorem hmacGivesTheCode : Obligations.HmacGivesTheCode :=
  fun _ hm hk => exec_hmac_fits hm hk

/-! ### The padded key -/

/-- A key of at most one block is padded as it stands (41_hmac R130). -/
theorem hmacKey_of_length_le {k : List Byte} (h : k.length ≤ 64) :
    hmacKey k = k ++ List.replicate (64 - k.length) 0x00 := by
  simp only [hmacKey, if_neg (Nat.not_lt.2 h)]

/-- A longer key is padded as its digest, which itself fits a block (41_hmac R130). -/
theorem hmacKey_of_lt_length {k : List Byte} (h : 64 < k.length) : hmacKey k = hmacKey (sha1 k) := by
  rw [hmacKey_of_length_le (k := sha1 k) (by rw [sha1_length]; decide)]
  simp only [hmacKey, if_pos h]

/-- Zeros written after a key are the zeros its padding would have begun with (41_hmac R132). -/
theorem hmacKey_append_zeros {k : List Byte} {z : Nat} (h : k.length + z ≤ 64) :
    hmacKey (k ++ List.replicate z 0x00) = hmacKey k := by
  have hlen : (k ++ List.replicate z (0x00 : Byte)).length = k.length + z := by simp
  have hzeros : z + (64 - (k.length + z)) = 64 - k.length := by omega
  rw [hmacKey_of_length_le (hlen.trans_le h), hmacKey_of_length_le (Nat.le_of_add_right_le h), hlen, List.append_assoc,
    List.replicate_append_replicate, hzeros]

/-- The key enters the HMAC through its padded form alone (41_hmac R130). -/
theorem hmacSha1_congr_hmacKey {k k' : List Byte} (h : hmacKey k = hmacKey k') (m : List Byte) :
    hmacSha1 k m = hmacSha1 k' m := by
  simp only [hmacSha1, hmacOuterText, hmacInnerText, h]

/-- Settles O28: in each case the two keys have one padded form. -/
theorem hmacKeysAreZeroPaddedOrHashed : Obligations.HmacKeysAreZeroPaddedOrHashed :=
  ⟨fun _ m _ h => hmacSha1_congr_hmacKey (hmacKey_append_zeros h) m,
    fun _ m h => hmacSha1_congr_hmacKey (hmacKey_of_lt_length h) m⟩

end Sys2Proof.Machine

/-! PROOF. The statements of 42_base32: what the decoder answers for every text (R140, R141), B32DEC's completion
(R142), and the Base32 errors of every command that decodes (60_exceptions R181, R182). -/

namespace Sys2Proof.Machine

/-! ## The indices of the bytes -/

theorem base32Index_space : base32Index 0x20 = none := by decide

theorem base32Index_lt {c : Byte} {i : Nat} (h : base32Index c = some i) : i < 32 := by
  simp only [base32Index] at h
  split_ifs at h with hupper hlower hdigit <;> cases h <;> bv_omega

theorem upperCase_of_letter {c : Byte} (h : 0x61 ≤ c ∧ c ≤ 0x7A) : upperCase c = c - 0x20 := if_pos h

theorem upperCase_of_not_letter {c : Byte} (h : ¬ (0x61 ≤ c ∧ c ≤ 0x7A)) : upperCase c = c := if_neg h

theorem base32Index_lower {c : Byte} (h : 0x61 ≤ c ∧ c ≤ 0x7A) : base32Index c = some (c.toNat - 0x61) := by
  have hupper : ¬ (0x41 ≤ c ∧ c ≤ 0x5A) := by bv_omega
  rw [base32Index, if_neg hupper, if_pos h]

/-- A letter has the index of its upper case (42_base32 R140). -/
theorem base32Index_upperCase (c : Byte) : base32Index (upperCase c) = base32Index c := by
  by_cases h : 0x61 ≤ c ∧ c ≤ 0x7A
  · have hupper : 0x41 ≤ c - 0x20 ∧ c - 0x20 ≤ 0x5A := by bv_omega
    have hindex : (c - 0x20).toNat - 0x41 = c.toNat - 0x61 := by bv_omega
    rw [upperCase_of_letter h, base32Index_lower h, base32Index, if_pos hupper, hindex]
  · rw [upperCase_of_not_letter h]

theorem upperCase_eq_space_iff {c : Byte} : upperCase c = 0x20 ↔ c = 0x20 := by
  by_cases h : 0x61 ≤ c ∧ c ≤ 0x7A
  · rw [upperCase_of_letter h]
    bv_omega
  · rw [upperCase_of_not_letter h]

/-- No byte that is no symbol is a letter, so none changes its case. -/
theorem upperCase_of_base32Index_none {c : Byte} (h : base32Index c = none) : upperCase c = c :=
  upperCase_of_not_letter fun hletter => Option.some_ne_none _ ((base32Index_lower hletter).symm.trans h)

/-! ## The decoding loop, byte by byte -/

section Run

variable (src : BitVec 2) (i : Nat) (s : B32State) (t : List Byte)

theorem base32Run_space : base32Run src i s (0x20 :: t) = base32Run src (i + 1) s t := if_pos rfl

variable {c : Byte} (hspace : c ≠ 0x20)
include hspace

theorem base32Run_symbol {idx : Nat} (h : base32Index c = some idx) :
    base32Run src i s (c :: t) = base32Run src (i + 1) (s.push idx) t := by
  rw [base32Run, if_neg hspace, h]

theorem base32Run_invalid (h : base32Index c = none) :
    base32Run src i s (c :: t) = (s, some ⟨.base32Char, base32Info src c i⟩) := by
  rw [base32Run, if_neg hspace, h]

end Run

/-! ## Texts that decode, and texts that do not -/

/-- A text of symbols and spaces only (42_base32 R140). -/
def Base32Text (t : List Byte) : Prop := ∀ c ∈ t, c = 0x20 ∨ base32Index c ≠ none

theorem Base32Text.filter {t : List Byte} (h : Base32Text t) (p : Byte → Bool) : Base32Text (t.filter p) :=
  fun c hc => h c (List.mem_of_mem_filter hc)

theorem FirstInvalid.head {c : Byte} (hspace : c ≠ 0x20) (hc : base32Index c = none) (t : List Byte) :
    FirstInvalid (c :: t) 0 c :=
  ⟨rfl, hspace, hc, fun j _ hj => absurd hj j.not_lt_zero⟩

theorem FirstInvalid.cons {a c : Byte} {t : List Byte} {j : Nat} (ha : a = 0x20 ∨ base32Index a ≠ none)
    (h : FirstInvalid t j c) : FirstInvalid (a :: t) (j + 1) c := by
  obtain ⟨hget, hspace, hc, hbefore⟩ := h
  refine ⟨hget, hspace, hc, fun k d hk hd => ?_⟩
  cases k with
  | zero => cases hd; exact ha
  | succ k => exact hbefore k d (Nat.lt_of_succ_lt_succ hk) hd

/-- Past a first byte that is valid, the first invalid byte is that of the rest. -/
theorem FirstInvalid.of_cons {a c : Byte} {t : List Byte} {j : Nat} (h : FirstInvalid (a :: t) (j + 1) c) :
    (a = 0x20 ∨ base32Index a ≠ none) ∧ FirstInvalid t j c := by
  obtain ⟨hget, hspace, hc, hbefore⟩ := h
  exact ⟨hbefore 0 a j.succ_pos rfl, hget, hspace, hc, fun k d hk hd => hbefore (k + 1) d (Nat.succ_lt_succ hk) hd⟩

theorem FirstInvalid.index_lt_length {t : List Byte} {i : Nat} {c : Byte} (h : FirstInvalid t i c) : i < t.length :=
  (List.getElem?_eq_some_iff.1 h.1).1

/-- Every text is one or the other. -/
theorem base32Text_or_firstInvalid (t : List Byte) : Base32Text t ∨ ∃ i c, FirstInvalid t i c := by
  induction t with
  | nil => exact .inl nofun
  | cons a t ih =>
    by_cases ha : a = 0x20 ∨ base32Index a ≠ none
    · rcases ih with hrest | ⟨i, c, hrest⟩
      · exact .inl (List.forall_mem_cons.2 ⟨ha, hrest⟩)
      · exact .inr ⟨i + 1, c, hrest.cons ha⟩
    · obtain ⟨hspace, hnone⟩ := not_or.1 ha
      exact .inr ⟨0, a, .head hspace (not_not.1 hnone) t⟩

/-- Over symbols and spaces the loop takes in the symbols' indices, in order (42_base32 R141). -/
theorem Base32Text.run_eq {t : List Byte} (h : Base32Text t) (src : BitVec 2) (i : Nat) (s : B32State) :
    base32Run src i s t = ((t.filterMap base32Index).foldl B32State.push s, none) := by
  induction t generalizing i s with
  | nil => rfl
  | cons a t ih =>
    obtain ⟨ha, hrest⟩ := List.forall_mem_cons.1 h
    by_cases hspace : a = 0x20
    · subst hspace
      rw [base32Run_space, List.filterMap_cons_none base32Index_space, ih hrest]
    · obtain ⟨idx, hidx⟩ := Option.ne_none_iff_exists'.1 (ha.resolve_left hspace)
      rw [base32Run_symbol src i s t hspace hidx, List.filterMap_cons_some hidx, List.foldl_cons, ih hrest]

/-- The loop stops at the first invalid byte, with the error that names it (42_base32 R141). -/
theorem FirstInvalid.run_error {t : List Byte} {j : Nat} {c : Byte} (h : FirstInvalid t j c) (src : BitVec 2) (i : Nat)
    (s : B32State) : (base32Run src i s t).2 = some ⟨.base32Char, base32Info src c (i + j)⟩ := by
  induction t generalizing i j s with
  | nil => cases h.1
  | cons a t ih =>
    cases j with
    | zero =>
      obtain ⟨hget, hspace, hc, _⟩ := h
      cases hget
      rw [base32Run_invalid src i s t hspace hc, Nat.add_zero]
    | succ j =>
      obtain ⟨ha, hrest⟩ := h.of_cons
      rw [← Nat.succ_add_eq_add_succ]
      by_cases hspace : a = 0x20
      · subst hspace
        rw [base32Run_space, ih hrest]
      · obtain ⟨idx, hidx⟩ := Option.ne_none_iff_exists'.1 (ha.resolve_left hspace)
        rw [base32Run_symbol src i s t hspace hidx, ih hrest]

/-! ## The decoder -/

/-- The decoder's state once it has taken in the indices `l` (42_base32 R141). -/
def B32State.ofIndices (l : List Nat) : B32State := l.foldl B32State.push ⟨0, 0, []⟩

theorem Base32Text.decode_eq {t : List Byte} (h : Base32Text t) (src : BitVec 2) :
    base32Decode t src = .ok (B32State.ofIndices (t.filterMap base32Index)).out := by
  rw [base32Decode, runBase32, h.run_eq]
  rfl

theorem FirstInvalid.decode_eq {t : List Byte} {i : Nat} {c : Byte} (h : FirstInvalid t i c) (src : BitVec 2) :
    base32Decode t src = .error ⟨.base32Char, base32Info src c i⟩ := by
  rw [base32Decode, runBase32, h.run_error, Nat.zero_add]

theorem base32Decode_eq_ok_iff {t out : List Byte} {src : BitVec 2} :
    base32Decode t src = .ok out ↔ Base32Text t ∧ out = (B32State.ofIndices (t.filterMap base32Index)).out := by
  constructor
  · intro h
    rcases base32Text_or_firstInvalid t with ht | ⟨i, c, ht⟩
    · exact ⟨ht, Except.ok.inj (h.symm.trans (ht.decode_eq src))⟩
    · cases h.symm.trans (ht.decode_eq src)
  · rintro ⟨ht, rfl⟩
    exact ht.decode_eq src

/-- Settles O30: a text without an invalid byte decodes, and any other fails at its first. -/
theorem base32FailsAtTheFirstInvalidByte : Obligations.Base32FailsAtTheFirstInvalidByte := by
  intro t src e
  constructor
  · intro h
    rcases base32Text_or_firstInvalid t with ht | ⟨i, c, ht⟩
    · cases h.symm.trans (ht.decode_eq src)
    · exact ⟨i, c, ht, Except.error.inj (h.symm.trans (ht.decode_eq src))⟩
  · rintro ⟨i, c, ht, rfl⟩
    exact ht.decode_eq src

/-! ### Case and spaces -/

theorem base32Run_map_upperCase (src : BitVec 2) (t : List Byte) (i : Nat) (s : B32State) :
    base32Run src i s (t.map upperCase) = base32Run src i s t := by
  induction t generalizing i s with
  | nil => rfl
  | cons c t ih =>
    rw [List.map_cons]
    by_cases hspace : c = 0x20
    · rw [upperCase_eq_space_iff.2 hspace, hspace, base32Run_space, base32Run_space, ih]
    · have hspace' : upperCase c ≠ 0x20 := fun h => hspace (upperCase_eq_space_iff.1 h)
      have hindex := base32Index_upperCase c
      cases hc : base32Index c with
      | none =>
        rw [hc] at hindex
        rw [base32Run_invalid src i s _ hspace' hindex, base32Run_invalid src i s t hspace hc,
          upperCase_of_base32Index_none hc]
      | some idx =>
        rw [hc] at hindex
        rw [base32Run_symbol src i s _ hspace' hindex, base32Run_symbol src i s t hspace hc, ih]

/-- A space has no index, so leaving the spaces out leaves out no index. -/
theorem filterMap_base32Index_filter_space (t : List Byte) :
    (t.filter fun c => c ≠ 0x20).filterMap base32Index = t.filterMap base32Index := by
  rw [List.filterMap_filter]
  refine List.filterMap_congr fun c _ => ?_
  by_cases hspace : c = 0x20
  · rw [hspace, if_neg (by decide), base32Index_space]
  · rw [if_pos (decide_eq_true hspace)]

/-- Settles O31: folding changes no byte that is not a letter and no letter's index, and a space has no index. -/
theorem base32FoldsCaseAndSkipsSpaces : Obligations.Base32FoldsCaseAndSkipsSpaces := by
  intro t src
  refine ⟨?_, fun out h => ?_⟩
  · simp only [base32Decode, runBase32, base32Run_map_upperCase]
  · obtain ⟨ht, rfl⟩ := base32Decode_eq_ok_iff.1 h
    rw [(ht.filter _).decode_eq, filterMap_base32Index_filter_space]

/-! ### The bits of the symbols -/

theorem digitsValue_concat (b : Nat) (l : List Nat) (d : Nat) : digitsValue b (l ++ [d]) = b * digitsValue b l + d := by
  rw [digitsValue, List.foldl_append]
  rfl

/-- The decoder holds the bits of the indices `l`: the high ones as bytes emitted, fewer than 8 low ones buffered. -/
structure B32State.Holds (s : B32State) (l : List Nat) : Prop where
  nbits_lt : s.nbits < 8
  acc_lt : s.acc < 2 ^ s.nbits
  bits : 8 * s.out.length + s.nbits = 5 * l.length
  value : digitsValue 256 (s.out.map BitVec.toNat) * 2 ^ s.nbits + s.acc = digitsValue 32 l

/-- With a byte or more buffered, the high 8 bits leave the accumulator (42_base32 R141). -/
theorem B32State.push_byte {s : B32State} {n : Nat} (h : s.nbits + 5 = n + 8) (i : Nat) :
    s.push i =
      ⟨(s.acc * 32 + i) % 2 ^ n, n, s.out ++ [BitVec.ofNat 8 ((s.acc * 32 + i) / 2 ^ n)]⟩ := by
  have hn : s.nbits + 5 - 8 = n := by omega
  rw [B32State.push, hn]
  exact if_pos (by omega)

theorem B32State.push_buffered {s : B32State} (h : s.nbits + 5 < 8) (i : Nat) :
    s.push i = ⟨s.acc * 32 + i, s.nbits + 5, s.out⟩ := if_neg (Nat.not_le.2 h)

/-- The 8 bits that leave an accumulator and the `n` that stay are the number it held. -/
theorem digitsValue_concat_byte (out : List Byte) {n v : Nat} (hv : v < 2 ^ (n + 8)) :
    digitsValue 256 ((out ++ [BitVec.ofNat 8 (v / 2 ^ n)]).map BitVec.toNat) * 2 ^ n + v % 2 ^ n =
      digitsValue 256 (out.map BitVec.toNat) * 2 ^ (n + 8) + v := by
  have hbyte : v / 2 ^ n < 2 ^ 8 := Nat.div_lt_of_lt_mul (by rwa [← Nat.pow_add])
  rw [List.map_append, List.map_singleton, digitsValue_concat, BitVec.toNat_ofNat, Nat.mod_eq_of_lt hbyte, Nat.add_mul,
    Nat.add_assoc, Nat.div_add_mod', Nat.pow_add]
  ring

theorem B32State.Holds.start : B32State.Holds ⟨0, 0, []⟩ [] := ⟨by decide, by decide, rfl, rfl⟩

/-- Another index keeps the correspondence, whether it completes a byte or not. -/
theorem B32State.Holds.push {s : B32State} {l : List Nat} (h : s.Holds l) {i : Nat} (hi : i < 32) :
    (s.push i).Holds (l ++ [i]) := by
  obtain ⟨hnbits, hacc⟩ := B32State.push_small h.nbits_lt h.acc_lt hi
  have hbits : 8 * s.out.length + (s.nbits + 5) = 5 * (l ++ [i]).length := by
    rw [List.length_append, List.length_singleton, Nat.mul_add, ← h.bits, Nat.add_assoc]
  have hvalue : digitsValue 256 (s.out.map BitVec.toNat) * 2 ^ (s.nbits + 5) + (s.acc * 32 + i) =
      digitsValue 32 (l ++ [i]) := by
    rw [digitsValue_concat, ← h.value, Nat.pow_add]
    ring
  by_cases hbyte : s.nbits + 5 < 8
  · rw [B32State.push_buffered hbyte] at hnbits hacc ⊢
    exact ⟨hnbits, hacc, hbits, hvalue⟩
  · obtain ⟨n, hn⟩ := Nat.exists_eq_add_of_le' (Nat.not_lt.1 hbyte)
    have hnumber : s.acc * 32 + i < 2 ^ (n + 8) := by
      have hlt := h.acc_lt
      rw [← hn, Nat.pow_add]
      omega
    rw [B32State.push_byte hn] at hnbits hacc ⊢
    rw [hn] at hbits hvalue
    refine ⟨hnbits, hacc, ?_, (digitsValue_concat_byte s.out hnumber).trans hvalue⟩
    rw [List.length_append, List.length_singleton, ← hbits]
    ring

theorem B32State.Holds.foldl_push {s : B32State} {l m : List Nat} (h : s.Holds l) (hm : ∀ i ∈ m, i < 32) :
    (m.foldl B32State.push s).Holds (l ++ m) := by
  induction m generalizing s l with
  | nil => rwa [List.append_nil]
  | cons i m ih =>
    obtain ⟨hi, hrest⟩ := List.forall_mem_cons.1 hm
    rw [List.append_cons]
    exact ih (h.push hi) hrest

/-- What has been emitted is what has been taken in, less the fewer than 8 low bits still buffered. -/
theorem B32State.Holds.out_eq {s : B32State} {l : List Nat} (h : s.Holds l) :
    s.out.length = 5 * l.length / 8 ∧
      digitsValue 256 (s.out.map BitVec.toNat) = digitsValue 32 l / 2 ^ (5 * l.length % 8) := by
  obtain ⟨hnbits, hacc, hbits, hvalue⟩ := h
  have hleft : 5 * l.length % 8 = s.nbits := by omega
  refine ⟨by omega, ?_⟩
  rw [hleft, ← hvalue, Nat.add_comm, Nat.add_mul_div_right _ _ (Nat.two_pow_pos _), Nat.div_eq_of_lt hacc,
    Nat.zero_add]

theorem lt_of_mem_filterMap_base32Index {t : List Byte} : ∀ i ∈ t.filterMap base32Index, i < 32 := by
  intro i hi
  obtain ⟨_, _, hc⟩ := List.mem_filterMap.1 hi
  exact base32Index_lt hc

/-- Settles O29: the decoder's state holds the bits of the indices it took in, from its start to its end. -/
theorem base32RegroupsTheSymbolsBits : Obligations.Base32RegroupsTheSymbolsBits := by
  intro t out src h
  obtain ⟨_, rfl⟩ := base32Decode_eq_ok_iff.1 h
  exact (B32State.Holds.start.foldl_push lt_of_mem_filterMap_base32Index).out_eq

/-! ## B32DEC and the Base32 errors of the commands -/

/-- Settles O13: the message fits and decodes, so B32DEC concludes with its bytes. -/
theorem b32decGivesTheBytes : Obligations.B32decGivesTheBytes := by
  intro s r hl hr
  have hbody : s.b32decBody = .ok ⟨r, 0, 0⟩ := by
    simp only [State.b32decBody, State.message_eq hl, hr, bind, Except.bind]
  obtain ⟨t, ht, hrest⟩ := conclude_ok s s.workAfterB32dec ⟨r, 0, 0⟩
  rw [← hbody] at ht
  exact ⟨t, congrArg _ ht, hrest⟩

/-- Appending a field adds its number below the others. -/
theorem toNat_append_eq {m n : Nat} (x : BitVec m) (y : BitVec n) : (x ++ y).toNat = x.toNat * 2 ^ n + y.toNat := by
  rw [BitVec.toNat_append, ← Nat.shiftLeft_add_eq_or_of_lt y.isLt, Nat.shiftLeft_eq]

/-- The information of BASE32_CHAR as a number, for an index that fits its field (60_exceptions R181). -/
theorem base32Info_eq_ofNat (src : BitVec 2) (c : Byte) {i : Nat} (hi : i < 65536) :
    base32Info src c i = BitVec.ofNat 32 (src.toNat * 0x1000000 + c.toNat * 0x10000 + i) := by
  have hfields : (base32Info src c i).toNat = src.toNat * 0x1000000 + c.toNat * 0x10000 + i := by
    have hlow := Nat.mod_eq_of_lt hi
    simp only [base32Info, toNat_append_eq, BitVec.toNat_ofNat, BitVec.ofNat_eq_ofNat, Nat.zero_mod, hlow]
    ring
  rw [← hfields, BitVec.ofNat_toNat, BitVec.setWidth_eq]

/-- A text of at most 65536 bytes fails with the number that names its first invalid byte. -/
theorem FirstInvalid.decode_eq_ofNat {t : List Byte} {i : Nat} {c : Byte} (h : FirstInvalid t i c)
    (ht : t.length ≤ 65536) (src : BitVec 2) :
    base32Decode t src = .error ⟨.base32Char, BitVec.ofNat 32 (src.toNat * 0x1000000 + c.toNat * 0x10000 + i)⟩ := by
  rw [h.decode_eq, base32Info_eq_ofNat src c (h.index_lt_length.trans_le ht)]

/-- DEFAULT_SECRET has at most the 11 bytes of one segment and the 7 of the other (44_totp R166). -/
theorem Params.defaultSecret_length_le (p : Params) : p.defaultSecret.length ≤ 18 := by
  simp only [Params.defaultSecret]
  split
  all_goals simp only [List.length_append, List.length_take, List.length_drop]; omega

section Errors

variable {s : State} {e : CmdError}

theorem next_conclude_error {x : Except CmdError Result} (w : Work) (hx : x = .error e) :
    ∃ t, (.next (State.conclude { s with work := w } x) : Host.Outcome State Fault Refusal) = .next t ∧
      Failed s t e.code e.info := by
  subst hx
  obtain ⟨t, ht, hfailed⟩ := conclude_error s w e
  exact ⟨t, congrArg _ ht, hfailed⟩

theorem exec_b32dec_error (hl : s.msgLen.toNat ≤ s.params.msgBytes)
    (h : base32Decode (s.memRead .msg 0 s.msgLen.toNat) 1 = .error e) :
    ∃ t, exec .b32dec s = .next t ∧ Failed s t e.code e.info :=
  next_conclude_error s.workAfterB32dec
    (by simp only [State.b32decBody, State.message_eq hl, h, bind, Except.bind])

/-- The secret is resolved before the code length is looked at (60_exceptions R182). -/
theorem exec_hotp_secret_error {b32 : Bool} (h : s.resolveSecret b32 = .error e) :
    ∃ t, exec (.hotp b32) s = .next t ∧ Failed s t e.code e.info :=
  next_conclude_error (s.workAfterHotp b32) (by simp only [State.hotpBody, h, bind, Except.bind])

/-- The secret is resolved before the time and the code length are looked at (60_exceptions R182). -/
theorem exec_totp_secret_error {b32 : Bool} (h : s.resolveSecret b32 = .error e) :
    ∃ t, exec (.totp b32) s = .next t ∧ Failed s t e.code e.info :=
  next_conclude_error (s.workAfterTotp b32) (by simp only [State.totpBody, h, bind, Except.bind])

/-- The text is decoded before the time and the code length are looked at (60_exceptions R182). -/
theorem exec_getcode_base32_error {d : Bool} {text : List Byte} {src : BitVec 2} (ht : s.TextIs d text src)
    (h : base32Decode text src = .error e) :
    ∃ t, exec (.getcode d) s = .next t ∧ Caught s t e.code e.info := by
  have hbody : s.getcodeBody d = .error e := by
    simp only [State.getcodeBody, State.getcodeText_eq ht, h, bind, Except.bind]
  obtain ⟨t, ht, hcaught⟩ := concludeCaught_error s (s.workAfterGetcode d) e
  rw [← hbody] at ht
  exact ⟨t, congrArg _ ht, hcaught⟩

theorem State.resolveSecret_base32_error (hl : s.keyLen.toNat ≤ s.params.keyBytes)
    (h : base32Decode (s.memRead .key 0 s.keyLen.toNat) 2 = .error e) : s.resolveSecret true = .error e := by
  simp only [State.resolveSecret, State.keyBytes_eq hl, bind, Except.bind, if_true, h]

end Errors

/-- Settles O18: each text is at most 65536 bytes long, so the index of its first invalid byte fits its field. -/
theorem base32ErrorNamesTheFirstInvalidByte : Obligations.Base32ErrorNamesTheFirstInvalidByte := by
  intro s i c hw
  obtain ⟨_, _, _, hmsg, hkey, _⟩ := Params.wf_sizes hw
  refine ⟨fun hl hbad => ?_, fun hl hbad => ?_, fun hbad => ?_⟩
  · exact exec_b32dec_error hl (hbad.decode_eq_ofNat ((s.memRead_length ..).trans_le (hl.trans hmsg)) 1)
  · have hdec := hbad.decode_eq_ofNat ((s.memRead_length ..).trans_le (hl.trans hkey)) 2
    have hsecret := State.resolveSecret_base32_error hl hdec
    exact ⟨exec_hotp_secret_error hsecret, exec_totp_secret_error hsecret,
      exec_getcode_base32_error (d := false) ⟨hl, rfl, rfl⟩ hdec⟩
  · have hdec := hbad.decode_eq_ofNat ((Params.defaultSecret_length_le s.params).trans (by decide)) 3
    exact exec_getcode_base32_error (d := true) ⟨rfl, rfl⟩ hdec

end Sys2Proof.Machine

namespace Sys2Proof.Machine

/-! ## HOTP and its unit -/

/-! ### Decimal -/

/-- The digits before the last are those of the quotient by ten (43_hotp R153). -/
theorem decimal_succ (code n : Nat) :
    decimal code (n + 1) = decimal (code / 10) n ++ [BitVec.ofNat 8 (0x30 + code % 10)] := by
  have hshift : ∀ j ∈ List.range n, code / 10 ^ (n + 1 - 1 - j) = code / 10 / 10 ^ (n - 1 - j) := fun j hj => by
    have hplace : n + 1 - 1 - j = n - 1 - j + 1 := by
      have hlt := List.mem_range.1 hj
      omega
    rw [hplace, Nat.pow_succ', Nat.div_div_eq_div_mul]
  rw [decimal, List.range_succ, List.map_append, decimal]
  congr 1
  · exact List.map_congr_left fun j hj => by rw [hshift j hj]
  · simp

/-- An ASCII digit is its digit above 0x30 (43_hotp R153). -/
theorem toNat_asciiDigit {d : Nat} (h : d < 10) : (BitVec.ofNat 8 (0x30 + d)).toNat = 0x30 + d := by
  rw [BitVec.toNat_ofNat, Nat.mod_eq_of_lt (by omega)]

/-- `Decimal` keeps the low `n` decimal digits. -/
theorem digitsValue_decimal (code n : Nat) :
    digitsValue 10 ((decimal code n).map fun d => d.toNat - 0x30) = code % 10 ^ n := by
  induction n generalizing code with
  | zero => simp [decimal, digitsValue, Nat.mod_one]
  | succ n ih =>
    rw [decimal_succ, List.map_append, List.map_singleton, digitsValue_concat, ih,
      toNat_asciiDigit (Nat.mod_lt _ (by decide)), Nat.add_sub_cancel_left, Nat.pow_succ', Nat.mod_mul, Nat.add_comm]

theorem decimal_getElem? (code : Nat) {n j : Nat} (h : j < n) :
    (decimal code n)[j]? = some (BitVec.ofNat 8 (0x30 + code / 10 ^ (n - 1 - j) % 10)) := by
  simp [decimal, h]

theorem asciiDigit_of_mem_decimal {code n : Nat} {d : Byte} (h : d ∈ decimal code n) : 0x30 ≤ d ∧ d ≤ 0x39 := by
  obtain ⟨j, _, rfl⟩ := List.mem_map.1 h
  have hdigit : code / 10 ^ (n - 1 - j) % 10 < 10 := Nat.mod_lt _ (by decide)
  have hbyte := toNat_asciiDigit hdigit
  simp only [BitVec.le_def, hbyte, BitVec.toNat_ofNat, BitVec.ofNat_eq_ofNat]
  omega

/-- Settles O32: the low `n` digits of a code below 10^n are all of it. -/
theorem decimalIsTheCodesDigits : Obligations.DecimalIsTheCodesDigits := by
  intro code n hcode _ _
  refine ⟨decimal_length code n, fun d hd => asciiDigit_of_mem_decimal hd, fun j hj => decimal_getElem? code hj, ?_⟩
  rw [digitsValue_decimal, Nat.mod_eq_of_lt hcode]

/-! ### Dynamic truncation and the code -/

/-- `BE32` as a number (00_scope R11). -/
theorem toNat_be32 (b0 b1 b2 b3 : Byte) :
    (be32 b0 b1 b2 b3).toNat = b0.toNat * 2 ^ 24 + b1.toNat * 2 ^ 16 + b2.toNat * 2 ^ 8 + b3.toNat := by
  simp only [be32, toNat_append_eq]
  ring

/-- Masking with 0x7FFFFFFF drops the top bit. -/
theorem toNat_and_low31 (w : Word) : (w &&& 0x7FFFFFFF).toNat = w.toNat % 2 ^ 31 := by
  rw [BitVec.toNat_and]
  exact Nat.and_two_pow_sub_one_eq_mod w.toNat 31

/-- The truncated value, byte by byte (43_hotp R150). -/
theorem truncate_eq (h : List Byte) {o : Nat} (ho : o = (h.getD 19 0 &&& 0x0F).toNat) :
    truncate h = (h.getD o 0).toNat % 128 * 2 ^ 24 + (h.getD (o + 1) 0).toNat * 2 ^ 16
      + (h.getD (o + 2) 0).toNat * 2 ^ 8 + (h.getD (o + 3) 0).toNat := by
  have h1 := (h.getD (o + 1) 0).isLt
  have h2 := (h.getD (o + 2) 0).isLt
  have h3 := (h.getD (o + 3) 0).isLt
  rw [truncate, ← ho, toNat_and_low31, be32At, toNat_be32]
  omega

theorem truncate_lt (h : List Byte) : truncate h < 2 ^ 31 := by
  rw [truncate, toNat_and_low31]
  exact Nat.mod_lt _ (by decide)

/-- The offset is a nibble (43_hotp R150). -/
theorem toNat_and_nibble_le (b : Byte) : (b &&& 0x0F).toNat ≤ 15 := by
  rw [BitVec.toNat_and]
  exact Nat.and_le_right

/-- Settles O33: a code is a residue modulo 10^n, and the truncated value one modulo 2^31, from an offset of at most
15. -/
theorem hotpCodesHaveTheirLength : Obligations.HotpCodesHaveTheirLength := by
  refine ⟨fun s C n r h => ?_, fun s C n h => hotp_codeLen h,
    fun h _ => ⟨_, rfl, ?_, truncate_lt h, truncate_eq h rfl⟩⟩
  · obtain ⟨h1, h9, hcode, hdigits⟩ := hotp_ok h
    have hlt : r.code < 10 ^ n.toNat := hcode ▸ Nat.mod_lt _ (Nat.pow_pos (by decide))
    exact ⟨h1, h9, hcode, hlt, (hotp_code_lt h).trans (by decide), hdigits⟩
  · exact Nat.add_le_add_right (toNat_and_nibble_le _) 3

/-! ### The commands' bodies, once the secret has resolved -/

section Bodies

variable {s : State} {b32 : Bool} {k : List Byte} (hk : s.SecretIs b32 k)
include hk

theorem State.hotpBody_eq : s.hotpBody b32 = (hotp k s.counter s.codeLen).map fun r => r.result s.counter := by
  simp only [State.hotpBody, State.resolveSecret_eq hk, bind, Except.bind]
  cases hotp k s.counter s.codeLen <;> rfl

theorem State.totpBody_eq :
    s.totpBody b32 = (totp k s.time s.epoch s.timeStep s.codeLen).map fun p => p.2.result p.1 := by
  simp only [State.totpBody, State.resolveSecret_eq hk, bind, Except.bind]
  cases totp k s.time s.epoch s.timeStep s.codeLen <;> rfl

end Bodies

/-! ### The completions -/

/-- A command whose body succeeds answers the completion of that result (60_exceptions R183). -/
theorem next_conclude_ok {s : State} {x : Except CmdError Result} {r : Result} (w : Work) (hx : x = .ok r) :
    ∃ t, (.next (State.conclude { s with work := w } x) : Host.Outcome State Fault Refusal) = .next t ∧
      SameInputs s t ∧ Completed t 0 s.log 0 r.out.length r.code r.lcnt ∧ t.OutHolds r.out := by
  subst hx
  obtain ⟨t, ht, hrest⟩ := conclude_ok s w r
  exact ⟨t, congrArg _ ht, hrest⟩

/-- A GETCODE whose body fails answers the completion that catches the error (44_totp R164). -/
theorem next_concludeCaught_error {s : State} {x : Except CmdError Result} {e : CmdError} (w : Work)
    (hx : x = .error e) :
    ∃ t, (.next (State.concludeCaught { s with work := w } x) : Host.Outcome State Fault Refusal) = .next t ∧
      Caught s t e.code e.info := by
  subst hx
  obtain ⟨t, ht, hcaught⟩ := concludeCaught_error s w e
  exact ⟨t, congrArg _ ht, hcaught⟩

/-- Settles O14: the secret resolves and the length is legal, so HOTP concludes with the code of CNT. -/
theorem hotpGivesTheCode : Obligations.HotpGivesTheCode := by
  intro s b32 k hk h1 h9
  have hbody : s.hotpBody b32 = .ok (Otp.result ⟨codeOf k s.counter s.codeLen.toNat,
      decimal (codeOf k s.counter s.codeLen.toNat) s.codeLen.toNat⟩ s.counter) := by
    rw [State.hotpBody_eq hk, hotp_eq h1 h9, Except.map]
  obtain ⟨t, ht, hin, hdone, hout⟩ := next_conclude_ok (s.workAfterHotp b32) hbody
  rw [Otp.result, decimal_length] at hdone
  exact ⟨t, ht, hin, hdone, hout⟩

/-- The length is looked at once the counter is known (44_totp R162). -/
theorem totp_codeLen {k : List Byte} {T T0 : DWord} {X : Word} {n : BitVec 4} (hX : X ≠ 0) (h : T0 ≤ T)
    (hn : n < 1 ∨ 9 < n) : totp k T T0 X n = .error ⟨.codeLen, n.setWidth 32⟩ := by
  simp only [totp, totpCounter_eq hX h, hotp_codeLen hn]

/-- Settles O20: with the secret resolved and the time in range, the unit of each command fails with the length. -/
theorem codeLengthErrorsComeLast : Obligations.CodeLengthErrorsComeLast := by
  intro s hn
  refine ⟨fun b32 k hk => ⟨?_, fun hX hT => ?_⟩, fun dflt text k src ht hk hX ⟨T, hrun, hT⟩ => ?_⟩
  · have hbody : s.hotpBody b32 = .error ⟨.codeLen, s.codeLen.setWidth 32⟩ := by
      rw [State.hotpBody_eq hk, hotp_codeLen hn, Except.map]
    exact next_conclude_error (s.workAfterHotp b32) hbody
  · have hbody : s.totpBody b32 = .error ⟨.codeLen, s.codeLen.setWidth 32⟩ := by
      rw [State.totpBody_eq hk, totp_codeLen hX hT hn, Except.map]
    exact next_conclude_error (s.workAfterTotp b32) hbody
  · have hnow : s.epoch ≤ s.now := hrun.now_eq.symm ▸ hT
    have hbody : s.getcodeBody dflt = .error ⟨.codeLen, s.codeLen.setWidth 32⟩ := by
      rw [State.getcodeBody_eq ht hk, totp_codeLen hX hnow hn, Except.map]
    exact next_concludeCaught_error (s.workAfterGetcode dflt) hbody

end Sys2Proof.Machine

/-! PROOF. The statements of 44_totp: the counter of a timestamp (R161, R167), the default secret (R166), and what TOTP
and GETCODE give (R162 to R165). -/

namespace Sys2Proof

/-! ## The default secret -/

/-- `t` has "QS" at index `j` (44_totp R166). -/
abbrev QSAt (t : List Byte) (j : Nat) : Prop := t[j]? = some 0x51 ∧ t[j + 1]? = some 0x53

/-- The search looks at the front, then at the rest. -/
theorem findQS_cons (i : Nat) (a : Byte) (t : List Byte) :
    findQS i (a :: t) = if QSAt (a :: t) 0 then some i else findQS (i + 1) t := by
  cases t <;> simp [findQS, QSAt]

theorem findQS_eq_some {t : List Byte} {q : Nat} (hq : QSAt t q) (hfirst : ∀ j, j < q → ¬ QSAt t j) (i : Nat) :
    findQS i t = some (i + q) := by
  induction t generalizing q i with
  | nil => exact absurd hq.1 nofun
  | cons a t ih =>
    rw [findQS_cons]
    cases q with
    | zero => rw [if_pos hq, Nat.add_zero]
    | succ q =>
      rw [if_neg (hfirst 0 (Nat.succ_pos q)), ih hq fun j hj => hfirst (j + 1) (Nat.succ_lt_succ hj)]
      congr 1
      omega

theorem findQS_eq_none {t : List Byte} (h : ∀ j, ¬ QSAt t j) (i : Nat) : findQS i t = none := by
  induction t generalizing i with
  | nil => rfl
  | cons a t ih => rw [findQS_cons, if_neg (h 0), ih fun j => h (j + 1)]

section DefaultSecret

variable {p : Params} {seg1 seg2 : List Byte} (h1 : seg1 = (p.frag1 ++ p.frag2).take 11)
  (h2 : seg2 = ((p.frag1 ++ p.frag2).drop 11).take 7)
include h1

theorem Params.defaultSecret_of_none (h : findQS 0 seg1 = none) : p.defaultSecret = seg1 := by
  subst h1
  simp only [Params.defaultSecret, h]

include h2

theorem Params.defaultSecret_of_some {q : Nat} (h : findQS 0 seg1 = some q) :
    p.defaultSecret = seg1.take q ++ seg2 ++ seg1.drop (q + 2) := by
  subst h1 h2
  simp only [Params.defaultSecret, h]

end DefaultSecret

end Sys2Proof

namespace Sys2Proof.Machine

/-- Settles O37: the search finds the first "QS", and finds none only where there is none: past index 9 of eleven bytes
no second byte is left. -/
theorem defaultSecretReplacesTheFirstQS : Obligations.DefaultSecretReplacesTheFirstQS := by
  intro p S seg1 seg2 hS hlen h1 h2
  have hseg1 : seg1.length = 11 := by rw [h1, List.length_take]; omega
  have hseg2 : seg2.length = 7 := by rw [h2, List.length_take, List.length_drop]; omega
  subst hS
  refine ⟨fun q hq hQ hT hfirst => ?_, fun hnone => ?_⟩
  · have hfound : findQS 0 seg1 = some q := by rw [findQS_eq_some ⟨hQ, hT⟩ hfirst, Nat.zero_add]
    have hsecret := Params.defaultSecret_of_some h1 h2 hfound
    refine ⟨hsecret, ?_⟩
    rw [hsecret]
    simp only [List.length_append, List.length_take, List.length_drop, hseg1, hseg2]
    omega
  · have hmissing : ∀ j, ¬ QSAt seg1 j := fun j hj => by
      have hinside : j + 1 < seg1.length := (List.getElem?_eq_some_iff.1 hj.2).1
      exact hnone j (by omega) hj
    have hsecret := Params.defaultSecret_of_none h1 (findQS_eq_none hmissing 0)
    exact ⟨hsecret, hsecret ▸ hseg1⟩

/-! ## The counter of a timestamp -/

theorem totpCounter_stepZero (T T0 : DWord) : totpCounter T T0 0 = .error ⟨.timeRange, 1⟩ := if_pos rfl

theorem totpCounter_early {T T0 : DWord} {X : Word} (hX : X ≠ 0) (h : T < T0) :
    totpCounter T T0 X = .error ⟨.timeRange, 2⟩ := by
  simp only [totpCounter, if_neg hX, if_pos h]

/-- A floor of (T − T0) / X is at most T, so the counter holds it (44_totp R161). -/
theorem toNat_counter (T T0 : DWord) (X : Word) :
    (BitVec.ofNat 64 ((T.toNat - T0.toNat) / X.toNat)).toNat = (T.toNat - T0.toNat) / X.toNat := by
  rw [BitVec.toNat_ofNat]
  exact Nat.mod_eq_of_lt (((Nat.div_le_self _ _).trans (Nat.sub_le _ _)).trans_lt T.isLt)

/-- In range the counter is the floor, as a number. -/
theorem totpCounter_floor {T T0 : DWord} {X : Word} (hX : X ≠ 0) (h : T0 ≤ T) :
    ∃ c : DWord, totpCounter T T0 X = .ok c ∧ c.toNat = (T.toNat - T0.toNat) / X.toNat :=
  ⟨_, totpCounter_eq hX h, toNat_counter T T0 X⟩

/-- A counter is given only for a time in range, and then is the floor. -/
theorem totpCounter_ok {T T0 c : DWord} {X : Word} (h : totpCounter T T0 X = .ok c) :
    X ≠ 0 ∧ T0 ≤ T ∧ c.toNat = (T.toNat - T0.toNat) / X.toNat := by
  have hX : X ≠ 0 := by
    rintro rfl
    exact nomatch (totpCounter_stepZero T T0).symm.trans h
  have hT : T0 ≤ T := BitVec.not_lt.1 fun hlt => nomatch (totpCounter_early hX hlt).symm.trans h
  cases (totpCounter_eq hX hT).symm.trans h
  exact ⟨hX, hT, toNat_counter T T0 X⟩

/-- Settles O34: the errors by cases, and the bounds that make a quotient the floor. -/
theorem totpCounterIsTheFloor : Obligations.TotpCounterIsTheFloor := by
  intro T T0 X
  refine ⟨fun hX => hX ▸ totpCounter_stepZero T T0, totpCounter_early, fun hX hT => ?_⟩
  obtain ⟨c, hc, hfloor⟩ := totpCounter_floor hX hT
  refine ⟨c, hc, ?_⟩
  rw [hfloor]
  exact ⟨Nat.mul_div_le _ _, Nat.lt_mul_div_succ _ (BitVec.toNat_pos_of_ne_zero hX)⟩

/-- Settles O35: one more step in the dividend is one more in the quotient. -/
theorem adjacentWindowsDifferByOne : Obligations.AdjacentWindowsDifferByOne := by
  intro T T0 c X hfit hc
  obtain ⟨hX, hT, hfloor⟩ := totpCounter_ok hc
  have hsum : (T + X.setWidth 64).toNat = T.toNat + X.toNat := by
    have hwide : X.toNat < 2 ^ 64 := by omega
    rw [BitVec.toNat_add, BitVec.toNat_setWidth, Nat.mod_eq_of_lt hwide, Nat.mod_eq_of_lt hfit]
  have hT' : T0.toNat ≤ T.toNat := hT
  have hlate : T0 ≤ T + X.setWidth 64 := by
    rw [BitVec.le_def, hsum]
    omega
  obtain ⟨c', hc', hfloor'⟩ := totpCounter_floor hX hlate
  refine ⟨c', hc', ?_⟩
  calc c'.toNat = (T.toNat + X.toNat - T0.toNat) / X.toNat := by rw [hfloor', hsum]
    _ = (T.toNat - T0.toNat + X.toNat) / X.toNat := by rw [Nat.sub_add_comm hT']
    _ = c.toNat + 1 := by rw [Nat.add_div_right _ (BitVec.toNat_pos_of_ne_zero hX), hfloor]

/-- Settles O36: the floor of a real quotient by a natural number is the quotient of the floor. -/
theorem wholeSecondsLoseNothing : Obligations.WholeSecondsLoseNothing := by
  intro t T0 X ht0 ht hX
  have hlt : ⌊t⌋₊ < 2 ^ 64 := (Nat.floor_lt (T0.toNat.cast_nonneg.trans ht0)).2 (by exact_mod_cast ht)
  have hwhole : (BitVec.ofNat 64 ⌊t⌋₊).toNat = ⌊t⌋₊ := by rw [BitVec.toNat_ofNat, Nat.mod_eq_of_lt hlt]
  have hlate : T0 ≤ BitVec.ofNat 64 ⌊t⌋₊ := by
    rw [BitVec.le_def, hwhole]
    exact Nat.le_floor ht0
  obtain ⟨c, hc, hfloor⟩ := totpCounter_floor hX hlate
  exact ⟨c, hc, by rw [hfloor, hwhole, Nat.floor_div_natCast, Nat.floor_sub_natCast]⟩

/-! ## TOTP and GETCODE with a code -/

/-- Settles O15: the secret resolves, and the time and the length are legal, so TOTP concludes with the code of its
window. -/
theorem totpGivesTheCode : Obligations.TotpGivesTheCode := by
  intro s b32 k c hk h1 h9 hX hT hc
  have hbody : s.totpBody b32 = .ok (Otp.result ⟨codeOf k c s.codeLen.toNat,
      decimal (codeOf k c s.codeLen.toNat) s.codeLen.toNat⟩ c) := by
    rw [State.totpBody_eq hk, totp_eq hX hT h1 h9 hc, Except.map]
  obtain ⟨t, ht, hin, hdone, hout⟩ := next_conclude_ok (s.workAfterTotp b32) hbody
  rw [Otp.result, decimal_length] at hdone
  exact ⟨t, ht, hin, hdone, hout⟩

/-- A GETCODE whose body succeeds answers the completion of that result, with LOG cleared (44_totp R163). -/
theorem next_concludeCaught_ok {s : State} {x : Except CmdError Result} {r : Result} (w : Work) (hx : x = .ok r) :
    ∃ t, (.next (State.concludeCaught { s with work := w } x) : Host.Outcome State Fault Refusal) = .next t ∧
      SameInputs s t ∧ Completed t 0 0 0 r.out.length r.code r.lcnt ∧ t.OutHolds r.out := by
  subst hx
  obtain ⟨t, ht, hrest⟩ := concludeCaught_ok s w r
  exact ⟨t, congrArg _ ht, hrest⟩

/-- Settles O16: the text decodes, and the sampled time and the length are legal, so GETCODE concludes with the code of
its window. -/
theorem getcodeGivesTheCode : Obligations.GetcodeGivesTheCode := by
  intro s dflt T text k src c hrun ht hk h1 h9 hX hT hc
  have hbody : s.getcodeBody dflt = .ok (Otp.result ⟨codeOf k c s.codeLen.toNat,
      decimal (codeOf k c s.codeLen.toNat) s.codeLen.toNat⟩ c) := by
    rw [State.getcodeBody_eq ht hk, hrun.now_eq, totp_eq hX hT h1 h9 hc, Except.map]
  obtain ⟨t, ht, hin, hdone, hout⟩ := next_concludeCaught_ok (s.workAfterGetcode dflt) hbody
  rw [Otp.result, decimal_length] at hdone
  exact ⟨t, ht, hin, hdone, hout⟩

/-! ## TOTP and GETCODE with a time out of range -/

theorem totp_stepZero {k : List Byte} {T T0 : DWord} {X : Word} {n : BitVec 4} (hX : X = 0) :
    totp k T T0 X n = .error ⟨.timeRange, 1⟩ := by
  simp only [totp, hX, totpCounter_stepZero]

section TimeRange

variable {s : State} {k : List Byte} {e : CmdError}

/-- With the secret resolved, TOTP reports what its unit answers (44_totp R162). -/
theorem exec_totp_unit_error {b32 : Bool} (hk : s.SecretIs b32 k)
    (h : totp k s.time s.epoch s.timeStep s.codeLen = .error e) :
    ∃ t, exec (.totp b32) s = .next t ∧ Failed s t e.code e.info :=
  next_conclude_error (s.workAfterTotp b32) (by rw [State.totpBody_eq hk, h, Except.map])

/-- With the text decoded, GETCODE catches what its unit answers (44_totp R164). -/
theorem exec_getcode_unit_error {d : Bool} {text : List Byte} {src : BitVec 2} (ht : s.TextIs d text src)
    (hk : base32Decode text src = .ok k) (h : totp k s.now s.epoch s.timeStep s.codeLen = .error e) :
    ∃ t, exec (.getcode d) s = .next t ∧ Caught s t e.code e.info :=
  next_concludeCaught_error (s.workAfterGetcode d) (by rw [State.getcodeBody_eq ht hk, h, Except.map])

end TimeRange

/-- Settles O19: the counter's errors come out of the unit before the length is looked at. -/
theorem timeRangeErrorsComeBeforeCodeLength : Obligations.TimeRangeErrorsComeBeforeCodeLength := by
  refine ⟨fun s b32 k hk => ⟨fun hX => ?_, fun hX hT => ?_⟩,
    fun s dflt text k src ht hk => ⟨fun hX => ?_, fun T hrun hX hT => ?_⟩⟩
  · exact exec_totp_unit_error hk (totp_stepZero hX)
  · exact exec_totp_unit_error hk (totp_early hX hT)
  · exact exec_getcode_unit_error ht hk (totp_stepZero hX)
  · exact exec_getcode_unit_error ht hk (totp_early hX (hrun.now_eq.symm ▸ hT))

/-! ## GETCODE's recovery boundary -/

/-- A GETCODE's result is a code of the legal length that CFG holds (44_totp R163). -/
theorem State.getcodeBody_ok {s : State} {d : Bool} {r : Result} (h : s.getcodeBody d = .ok r) :
    ∃ k c o, hotp k c s.codeLen = .ok o ∧ r = o.result c := by
  simp only [State.getcodeBody, bind, Except.bind] at h
  split at h
  · cases h
  · split at h
    · cases h
    · split at h
      · cases h
      · rename_i p hp
        cases h
        exact ⟨_, p.1, p.2, (totp_ok hp).2, rfl⟩

/-- A GETCODE that succeeds gives one to nine digits (44_totp R164). -/
theorem State.getcodeBody_out_length {s : State} {d : Bool} {r : Result} (h : s.getcodeBody d = .ok r) :
    1 ≤ r.out.length ∧ r.out.length ≤ 9 := by
  obtain ⟨k, c, o, ho, rfl⟩ := State.getcodeBody_ok h
  obtain ⟨h1, _⟩ := hotp_ok ho
  obtain ⟨hlen, h9⟩ := hotp_digits_length ho
  rw [Otp.result, hlen]
  exact ⟨h1, h9⟩

/-- Settles O21: a success has digits and clears LOG; an error that is caught has a code, and all else it leaves is
empty. -/
theorem getcodeIsTheRecoveryBoundary : Obligations.GetcodeIsTheRecoveryBoundary := by
  intro d s t ht
  cases hbody : s.getcodeBody d with
  | ok r =>
    obtain ⟨u, hu, _, hdone, _⟩ := next_concludeCaught_ok (s.workAfterGetcode d) hbody
    cases hu.symm.trans ht
    have hdigits : t.outLen ≠ 0 := by
      obtain ⟨h1, h9⟩ := State.getcodeBody_out_length hbody
      rw [hdone.outLen]
      bv_omega
    exact ⟨hdone.err, iff_of_false hdigits (not_not.2 hdone.log), fun _ => hdone.errInfo, (absurd hdone.log ·)⟩
  | error e =>
    obtain ⟨u, hu, _, hdone⟩ := next_concludeCaught_error (s.workAfterGetcode d) hbody
    cases hu.symm.trans ht
    have hlogged : t.log ≠ 0 := hdone.log ▸ e.code.code_le.2
    exact ⟨hdone.err, iff_of_true hdone.outLen hlogged, (absurd · hlogged), fun _ => ⟨hdone.code, hdone.lcnt⟩⟩

/-! ## Timestamps of one window -/

/-- A code depends on the window of its timestamp alone (44_totp R165). -/
theorem totp_sameWindow (k : List Byte) {T T' T0 : DWord} {X : Word} (n : BitVec 4) (hX : X ≠ 0) (hT : T0 ≤ T)
    (hT' : T0 ≤ T') (h : (T.toNat - T0.toNat) / X.toNat = (T'.toNat - T0.toNat) / X.toNat) :
    totp k T' T0 X n = totp k T T0 X n := by
  simp only [totp, totpCounter_eq hX hT, totpCounter_eq hX hT', h]

/-- TOTP's result is a code (44_totp R162). -/
theorem State.totpBody_ok {s : State} {b : Bool} {r : Result} (h : s.totpBody b = .ok r) :
    ∃ k c o, hotp k c s.codeLen = .ok o ∧ r = o.result c := by
  simp only [State.totpBody, bind, Except.bind] at h
  split at h
  · cases h
  · split at h
    · cases h
    · rename_i p hp
      cases h
      exact ⟨_, p.1, p.2, (totp_ok hp).2, rfl⟩

/-- A code fits the OUT of every parameter set, so that it needs none of its own state's. -/
theorem State.totpBody_fits_every {s : State} {b : Bool} {r : Result} (p : Params) (h : s.totpBody b = .ok r) :
    r.Fits p := by
  obtain ⟨k, c, o, ho, rfl⟩ := State.totpBody_ok h
  exact Otp.result_fits ho c p

/-- TOTP's body reads its time through the unit alone, so it answers the same throughout a window (44_totp R162). -/
theorem State.totpBody_sameWindow {s : State} {lo hi : Word} (hX : s.timeStep ≠ 0) (hT : s.epoch ≤ s.time)
    (hT' : s.epoch ≤ pair hi lo)
    (h : (s.time.toNat - s.epoch.toNat) / s.timeStep.toNat = ((pair hi lo).toNat - s.epoch.toNat) / s.timeStep.toNat)
    (b : Bool) : State.totpBody { s with timeLo := lo, timeHi := hi } b = s.totpBody b := by
  have hsecret : State.resolveSecret { s with timeLo := lo, timeHi := hi } b = s.resolveSecret b := rfl
  have htime : State.time { s with timeLo := lo, timeHi := hi } = pair hi lo := rfl
  have hepoch : State.epoch { s with timeLo := lo, timeHi := hi } = s.epoch := rfl
  have hunit := fun k => totp_sameWindow k s.codeLen hX hT hT' h
  simp only [State.totpBody, hsecret, htime, hepoch, hunit]

/-- So does GETCODE's, of two sampled times, when the other operands agree (44_totp R163). -/
theorem GetcodeRuns.getcodeBody_sameWindow {s s' : State} {d : Bool} {T T' : DWord} (hw : s.params.wf = true)
    (h : AgreeOnOperands s s') (hrun : GetcodeRuns d T s) (hrun' : GetcodeRuns d T' s') (hX : s.timeStep ≠ 0)
    (hT : s.epoch ≤ T) (hT' : s.epoch ≤ T')
    (hwin : (T.toNat - s.epoch.toNat) / s.timeStep.toNat = (T'.toNat - s.epoch.toNat) / s.timeStep.toNat) :
    s'.getcodeBody d = s.getcodeBody d := by
  have hunit := fun k => totp_sameWindow k s.codeLen hX hT hT' hwin
  simp only [State.getcodeBody, h.getcodeText_eq hw, h.epoch, h.timeStep, h.codeLen, hrun.now_eq, hrun'.now_eq, hunit]

/-- Settles O24: in one window the unit answers the same, so the bodies do, and so their completions show the same. Its
first part asks nothing of the parameters, so a code is measured against the suggested ones. -/
theorem sameWindowGivesTheSameCode : Obligations.SameWindowGivesTheSameCode := by
  refine ⟨fun b32 s t t' lo hi hX hT hT' hwin ht ht' => ?_,
    fun d s s' t t' T T' hw h hrun hrun' hX hT hT' hwin ht ht' => ?_⟩
  · have hbody := State.totpBody_sameWindow hX hT hT' hwin b32
    have hsuggested : Params.suggested.wf = true := by decide
    cases ht; cases ht'
    exact conclude_sameResults hsuggested (fun _ => State.totpBody_fits_every _) hbody
  · have hbody := hrun.getcodeBody_sameWindow hw h hrun' hX hT hT' hwin
    cases ht; cases ht'
    exact concludeCaught_sameResults hw (fun _ => State.getcodeBody_fits) hbody

end Sys2Proof.Machine

/-! PROOF. The statements of 60_exceptions: which command the engine completes and what the completion leaves (R183,
R184), which errors come first (R182), and what raises and clears IRQ (R190). -/

namespace Sys2Proof.Machine

/-! ## LENGTH comes first -/

section Length

variable {s : State}

theorem State.resolveSecret_length (h : s.params.keyBytes < s.keyLen.toNat) (b32 : Bool) :
    s.resolveSecret b32 = .error ⟨.length, 2⟩ := by
  simp only [State.resolveSecret, State.keyBytes_length h, bind, Except.bind]

theorem exec_message_length (h : s.params.msgBytes < s.msgLen.toNat) :
    ∀ i ∈ [Instr.sha1, .hmac, .b32dec], ∃ t, exec i s = .next t ∧ Failed s t .length 1 := by
  have hmsg : s.message = .error ⟨.length, 1⟩ := State.message_length h
  have hsha1 : s.sha1Body = .error ⟨.length, 1⟩ := by simp only [State.sha1Body, hmsg, bind, Except.bind]
  have hhmac : s.hmacBody = .error ⟨.length, 1⟩ := by simp only [State.hmacBody, hmsg, bind, Except.bind]
  have hb32dec : s.b32decBody = .error ⟨.length, 1⟩ := by simp only [State.b32decBody, hmsg, bind, Except.bind]
  simp only [List.forall_mem_cons]
  exact ⟨next_conclude_error s.workAfterSha1 hsha1, next_conclude_error s.workAfterHmac hhmac,
    next_conclude_error s.workAfterB32dec hb32dec, nofun⟩

/-- HMAC looks at KEY once its message has passed (41_hmac R131). -/
theorem exec_hmac_key_length (hm : s.msgLen.toNat ≤ s.params.msgBytes) (hk : s.params.keyBytes < s.keyLen.toNat) :
    ∃ t, exec .hmac s = .next t ∧ Failed s t .length 2 := by
  have hbody : s.hmacBody = .error ⟨.length, 2⟩ := by
    simp only [State.hmacBody, State.message_eq hm, State.keyBytes_length hk, bind, Except.bind]
  exact next_conclude_error s.workAfterHmac hbody

/-- GETCODE from KEY catches the length of its text (44_totp R164). -/
theorem exec_getcode_key_length (h : s.params.keyBytes < s.keyLen.toNat) :
    ∃ t, exec (.getcode false) s = .next t ∧ Caught s t .length 2 := by
  have htext : s.getcodeText false = .error ⟨.length, 2⟩ := by
    simp only [State.getcodeText, Bool.false_eq_true, if_false, State.keyBytes_length h, bind, Except.bind]
  have hbody : s.getcodeBody false = .error ⟨.length, 2⟩ := by
    simp only [State.getcodeBody, htext, bind, Except.bind]
  exact next_concludeCaught_error (s.workAfterGetcode false) hbody

end Length

/-- Settles O17: each body looks at the lengths before anything else, and HMAC at MSG's before KEY's. -/
theorem lengthErrorsComeFirst : Obligations.LengthErrorsComeFirst := by
  refine ⟨fun s hm => exec_message_length hm, fun s hk => ⟨fun hm => exec_hmac_key_length hm hk, fun b => ?_,
    fun b => ?_, exec_getcode_key_length hk⟩⟩
  · exact exec_hotp_secret_error (State.resolveSecret_length hk b)
  · exact exec_totp_secret_error (State.resolveSecret_length hk b)

/-! ## What a completion leaves -/

/-- No OUT byte past the result has a known value (20_memory R82). -/
theorem finish_find_past (s : State) (e : BitVec 4) (info : Word) {out : List Byte} (code : Word) (lcnt : DWord)
    (hlen : out.length < 2 ^ 32) {a : Nat}
    (ha : Buf.out.base + (s.finish e info out code lcnt).outLen.toNat ≤ a) :
    (s.finish e info out code lcnt).mem.find a = none := by
  have hcount : (BitVec.ofNat 32 out.length).toNat = out.length := by
    rw [BitVec.toNat_ofNat, Nat.mod_eq_of_lt hlen]
  rw [State.finish_outLen, hcount] at ha
  have hplace : a = Buf.out.base + (a - Buf.out.base) := by omega
  rw [State.finish_mem, hplace, Memory.find_finish_out]
  exact List.getElem?_eq_none (by omega)

/-- Settles O22: the completion is one record, whose result fits OUT and is empty after an error. -/
theorem completionChangesOnlyResults : Obligations.CompletionChangesOnlyResults := by
  intro i s
  obtain ⟨w, log, err, info, r, hexec, hend⟩ := exec_ending i s
  refine ⟨_, hexec, finish_sameInputs s w log _ _ _ _ _, rfl, rfl, fun hi => ?_, fun hw a ha => ?_, fun herr => ?_⟩
  · exact (exec_log hexec).resolve_right fun ⟨d, hd⟩ => hi d hd
  · exact finish_find_past _ _ _ _ _ (hend.fits.out_length_lt hw) ha
  · cases hend.err_empty herr
    exact ⟨rfl, rfl, extract_append_extract 0⟩

/-! ## What raises and clears IRQ -/

/-- A write that leaves IE alone while IDLE leaves it alone while BUSY too (20_memory R70). -/
theorem State.ifIdle_ie {s w : State} (hw : w.ie = s.ie) : (s.ifIdle w).ie = s.ie := by
  rcases s.ifIdle_cases w with ⟨_, e⟩ | ⟨_, e⟩ <;> rw [e]
  · exact hw
  · rfl

/-- Of the writes to a register only one to CTRL sets IE (10_state R25). -/
theorem State.writeReg_raises_ie {s : State} {r : Reg} {v : Word} (h : (s.writeReg r v).ie = true) :
    s.ie = true ∨ (r = .ctrl ∧ v.getLsbD 0 = true) := by
  cases r with
  | ctrl =>
    cases hv : v.getLsbD 1 with
    | true => rw [State.writeReg, s.writeCtrl_srst hv] at h; cases h
    | false => rw [State.writeReg, s.writeCtrl_ie hv] at h; exact .inr ⟨rfl, h⟩
  | cmd | msgLen | keyLen | cfg | timeStep | epochLo | epochHi | timeLo | timeHi | cntLo | cntHi =>
    refine .inl ((State.ifIdle_ie ?_).symm.trans h)
    rfl
  | status | id | caps | errInfo | outLen | code | lcntLo | lcntHi | msgSize | keySize | outSize => exact .inl h

theorem State.writeBuf_ie (s : State) (b : Buf) (i : Nat) (bytes : List Byte) : (s.writeBuf b i bytes).ie = s.ie := by
  cases b with
  | out => rfl
  | msg | key => exact State.ifIdle_ie rfl

/-- Of the host accesses only a write to CTRL sets IE (10_state R25). -/
theorem State.bus_raises_ie {s : State} {x : Access} (h : (s.bus x).ie = true) :
    s.ie = true ∨ ∃ v, x.target s.params = .reg .ctrl ∧ x.dir = .write v ∧ v.getLsbD 0 = true := by
  rcases s.bus_cases x with ⟨_, e⟩ | ⟨_, d, e⟩ | ⟨r, v, ht, hd, e⟩ | ⟨b, i, bytes, _, _, _, e⟩ <;> rw [e] at h
  · exact .inl h
  · exact .inl h
  · exact (State.writeReg_raises_ie h).imp_right fun ⟨hr, hv⟩ => ⟨v, hr ▸ ht, hd, hv⟩
  · exact .inl ((s.writeBuf_ie b i bytes).symm.trans h)

theorem State.engineTurn_ie {s t : State} (h : s.engineTurn = .next t) : t.ie = s.ie := by
  cases hb : s.busy with
  | false => cases (State.engineTurn_idle hb).symm.trans h; rfl
  | true => exact (State.complete_sameInputs ((State.engineTurn_busy hb).symm.trans h)).ie

/-- Of the steps only a host's write to CTRL sets IE (10_state R25). -/
theorem step_raises_ie {s t : State} (h : step s = .next t) (ht : t.ie = true) :
    s.ie = true ∨ ∃ v, s.NextWrites .ctrl v ∧ v.getLsbD 0 = true := by
  obtain ⟨_, h⟩ := step_next_cases h
  rcases h with ⟨_, h⟩ | ⟨x, hx, rfl⟩ | ⟨v, _, rfl⟩ | ⟨_, rfl⟩
  · exact .inl ((State.engineTurn_ie h).symm.trans ht)
  · exact (State.bus_raises_ie ht).imp_right fun ⟨v, hr, hd, hv⟩ => ⟨v, ⟨x, hx, hr, hd⟩, hv⟩
  · exact .inl ht
  · cases ht

/-- Only a completion sets DONE (10_state R43). -/
theorem FlagStep.raises_done {s t : State} (h : FlagStep s t) (ht : t.done = true) :
    s.done = true ∨ (s.busy = true ∧ s.EngineNext ∧ t.busy = false) := by
  cases h with
  | stands h => exact .inl (h.done.symm.trans ht)
  | completes hb he h => exact .inr ⟨hb, he, h.busy⟩
  | drops _ _ _ _ _ h => subst h; exact .inl ht
  | accepts _ _ _ h => subst h; cases ht
  | acknowledges v _ h =>
    subst h
    have hboth : s.done = true ∧ v.getLsbD 1 = false := by simpa [State.ackStatus_eq] using ht
    exact .inl hboth.1
  | resets _ _ hd _ => exact absurd (hd.symm.trans ht) (by decide)

theorem State.irq_iff {s : State} : s.irq = true ↔ s.ie = true ∧ s.done = true := Bool.and_eq_true_iff

/-- Settles O54: IRQ rises with DONE or with IE, and each has one writer that sets it. -/
theorem irqFollowsDoneAndEnable : Obligations.IrqFollowsDoneAndEnable := by
  refine ⟨fun s t hstep ht hs => ?_, fun i s t h => ?_, fun s v => ⟨?_, ?_, rfl, rfl⟩⟩
  · obtain ⟨hie, hdone⟩ := State.irq_iff.1 ht
    rcases (step_flags hstep).raises_done hdone with hdone' | hcompletes
    · rcases step_raises_ie hstep hie with hie' | ⟨v, hw, hv⟩
      · exact absurd (hs.symm.trans (State.irq_iff.2 ⟨hie', hdone'⟩)) (by decide)
      · exact .inr ⟨v, hw, hv, hdone'⟩
    · exact .inl hcompletes
  · obtain ⟨w, log, err, info, r, hexec, _⟩ := exec_ending i s
    cases hexec.symm.trans h
    exact finish_irq _ _ _ _ _ _
  · exact Bool.and_false s.ie
  · exact Bool.and_false s.ie

/-! ## The engine's turn -/

/-- A BUSY block that a run reaches has been BUSY since a write to CMD while IDLE (10_state R43). -/
theorem Reaches.exists_issue {s t : State} (hs : s.busy = false) (h : Reaches s t) (ht : t.busy = true) :
    ∃ (a : State) (v : Word), a.busy = false ∧ WhileBusy (a.issue v) t := by
  induction h with
  | refl => exact absurd (hs.symm.trans ht) (by decide)
  | @tail t u hst hstep ih =>
    cases hb : t.busy with
    | true =>
      obtain ⟨a, v, ha, hrun⟩ := ih hb
      exact ⟨a, v, ha, hrun.tail hstep ht⟩
    | false =>
      cases step_flags hstep with
      | accepts _ v _ e =>
        have hissue : t.pop.issue v = u := (State.issue_idle (s := t.pop) hb v).trans e.symm
        exact ⟨t.pop, v, hb, hissue ▸ .refl (hissue ▸ ht)⟩
      | stands h => exact absurd (h.busy.symm.trans ht) (by simp [hb])
      | completes hb' | drops hb' => exact absurd (hb'.symm.trans hb) (by decide)
      | acknowledges v _ e => subst e; exact absurd (hb.symm.trans ht) (by decide)
      | resets _ hb' => exact absurd (hb'.symm.trans ht) (by decide)

/-- While a command runs the engine's step is the completion of the word written to CMD (60_exceptions R183). -/
theorem WhileBusy.step_exec {s t : State} {v : Word} {i : Instr} (hw : s.params.wf = true) (hb : s.busy = false)
    (hi : decode v = .ok i) (h : WhileBusy (s.issue v) t) (he : t.EngineNext) : step t = exec i t.pop := by
  obtain ⟨hcmd, _, hparams⟩ := h.stands
  rw [State.issue_idle hb] at hcmd hparams
  have hv : t.pop.cmd = v := hcmd
  exact (step_complete (hparams ▸ hw) h.busy.2 he).trans (State.complete_ok (hv ▸ hi))

theorem decode_of_decodeTableWord {nbits w : Nat} {i : Instr} (h : decodeTableWord nbits w = some i) :
    decode (BitVec.ofNat 32 (w % 2 ^ nbits)) = .ok i := by
  unfold decodeTableWord at h
  split at h
  · cases hd : decode (BitVec.ofNat 32 (w % 2 ^ nbits)) with
    | ok j => rw [hd] at h; cases h; rfl
    | error c => rw [hd] at h; cases h
  · cases h

/-- Settles O5: the word latched is the one that was accepted, and it stands until the engine's turn completes it. -/
theorem stepRunsTheDecodedCommand : Obligations.StepRunsTheDecodedCommand := by
  refine ⟨fun s t v i hw hb hi hrun he => hrun.step_exec hw hb hi he, fun s t hs h ht => h.exists_issue hs ht,
    fun s hw hb he => ⟨s.cmd, fun i hi => ?_, fun c hc => ?_⟩, fun s nbits w i hw hi => ?_⟩
  · exact (step_complete hw hb he).trans (State.complete_ok (s := s.pop) hi)
  · obtain ⟨t, ht, hfailed⟩ := conclude_error s.pop s.work ⟨.illegalCmd, s.cmd⟩
    refine ⟨t, ?_, hfailed⟩
    rw [step_complete hw hb he, State.complete_error (s := s.pop) hc]
    exact congrArg _ ht
  · have hturn : step (s.withFetchWord nbits w) = (s.withFetchWord nbits w).pop.complete :=
      step_complete (s := s.withFetchWord nbits w) hw rfl (.inr rfl)
    exact hturn.trans (State.complete_ok (decode_of_decodeTableWord hi))

theorem State.complete_next (s : State) : ∃ t, s.complete = .next t := by
  cases hd : decode s.cmd with
  | ok i =>
    obtain ⟨w, log, err, info, r, hexec, _⟩ := exec_ending i s
    exact ⟨_, (State.complete_ok hd).trans hexec⟩
  | error c => exact ⟨_, State.complete_error hd⟩

/-- Settles O7: the turn is the completion of whatever word was latched. -/
theorem engineTurnEndsTheCommand : Obligations.EngineTurnEndsTheCommand := by
  intro s hw hb he
  obtain ⟨t, ht⟩ := s.pop.complete_next
  have hflags : CompletesFlags s.pop t := State.complete_flags ht
  have hin : SameInputs s.pop t := State.complete_sameInputs ht
  have hirq : t.irq = s.ie := by rw [State.irq, hin.ie, hflags.done, Bool.and_true]
  exact ⟨t, (step_complete hw hb he).trans ht, hflags.busy, hflags.done, hirq, hin⟩

end Sys2Proof.Machine

/-! PROOF. The statements of 70_reset: what the soft reset leaves (R212), what the power-on reset leaves (R211), and
that the state after power-on meets the invariant (R45). -/

namespace Sys2Proof.Machine

/-! ## What the registers read after a reset -/

/-- With its flags and codes cleared STATUS is 0 (10_state R26). -/
theorem State.statusWord_cleared {s : State} (hb : s.busy = false) (hd : s.done = false) (ho : s.ovr = false) :
    s.statusWord 0 0 = 0 := by
  simp [State.statusWord, State.irq, hb, hd, ho]

/-- After a soft reset each register reads its entry in the reset column (10_state R20): BUSY is 0, so a result register
and STATUS show their cleared fields and no draw. -/
theorem State.readReg_softReset (s : State) (r : Reg) : s.softReset.readReg r = r.resetValue s.params := by
  cases r with
  | status =>
    obtain ⟨e, l, hread, hidle⟩ := s.softReset.readReg_status
    obtain ⟨rfl, rfl⟩ := hidle s.softReset_busy
    exact hread.trans (State.statusWord_cleared s.softReset_busy s.softReset_done s.softReset_ovr)
  | errInfo | outLen | code | lcntLo | lcntHi => exact State.resultRead_idle s.softReset_busy _
  | id | caps | ctrl | cmd | msgLen | keyLen | cfg | timeStep | epochLo | epochHi | timeLo | timeHi | cntLo | cntHi
  | msgSize | keySize | outSize => rfl

theorem State.readReg_answerOkay (s : State) (r : Reg) : s.answerOkay.readReg r = s.readReg r := by
  cases r <;> rfl

/-- The power-on reset does to the registers what the soft reset does; it differs in the buffers (70_reset R211). -/
theorem State.readReg_powerOn (s : State) (r : Reg) : s.powerOn.readReg r = r.resetValue s.params := by
  have hsame : s.powerOn.readReg r = s.softReset.readReg r := by cases r <;> rfl
  exact hsame.trans (s.readReg_softReset r)

/-- The registers after power-on are those a soft reset would leave. -/
theorem State.readReg_boot (p : Params) (level : DWord) (l : List Input) (r : Reg) :
    (State.boot p level l).readReg r = r.resetValue p := by
  have hsame : (State.boot p level l).readReg r = (State.boot p level l).softReset.readReg r := by cases r <;> rfl
  exact hsame.trans ((State.boot p level l).readReg_softReset r)

/-- The reset state is the block after power-on with the suggested parameters (log 1). -/
theorem State.reset_eq_boot : State.reset = State.boot Params.suggested Config.freeNow [] := rfl

/-! ## The soft reset -/

/-- No OUT byte has a known value after a soft reset (70_reset R212). -/
theorem State.find_softReset_out (s : State) {a : Nat} (ha : Buf.out.base ≤ a) : s.softReset.mem.find a = none :=
  (Memory.find_below s.mem _ a).trans (if_neg (Nat.not_lt.2 ha))

/-- A write to CTRL with bit 1 set is the soft reset, IDLE or BUSY (10_state R25). -/
theorem State.bus_write_srst (s : State) {v : Word} (hv : v.getLsbD 1 = true) :
    s.bus ⟨.write v, 0x008, 4⟩ = s.softReset.answerOkay :=
  (s.bus_write_reg .ctrl v).trans (congrArg State.answerOkay (s.writeCtrl_srst hv))

/-- Settles O52: the write is the soft reset, which clears the registers and forgets the bytes of OUT alone. -/
theorem softResetKeepsOnlyMsgAndKey : Obligations.SoftResetKeepsOnlyMsgAndKey := by
  intro s v hv
  refine ⟨s.softReset.answerOkay, s.bus_write_srst hv, fun r => ?_, rfl, rfl, fun a ha => ?_, fun a ha => ?_,
    rfl, rfl, rfl, rfl⟩
  · exact (s.softReset.readReg_answerOkay r).trans (s.readReg_softReset r)
  · exact s.byteAt_softReset_lt ha
  · exact s.find_softReset_out ha

/-! ## The power-on reset -/

/-- The block after power-on has cleared results and an empty memory. -/
theorem State.boot_inv (p : Params) (level : DWord) (l : List Input) : (State.boot p level l).Inv :=
  State.inv_of_cleared .nil nofun nofun rfl rfl rfl rfl rfl

/-- Settles O10: the reset state is one of the states after power-on. -/
theorem bootMeetsTheInvariant : Obligations.BootMeetsTheInvariant :=
  ⟨State.reset_eq_boot ▸ State.boot_inv _ _ _, State.boot_inv⟩

/-- The step of a power-on reset at the head of the schedule (70_reset R210). -/
theorem step_powerOn {s : State} (hw : s.params.wf = true) (h : s.inputs.head? = some .powerOn) :
    step s = .next s.pop.powerOn := by
  obtain ⟨l, hl⟩ := List.head?_eq_some_iff.1 h
  simp only [step_move hw, State.move, State.pop, hl, State.event, List.tail_cons]

/-- Settles O53: the step is the power-on reset, and the states after power-on have the registers it leaves. -/
theorem powerOnResetsEverything : Obligations.PowerOnResetsEverything := by
  refine ⟨fun s hw hp => ⟨s.pop.powerOn, step_powerOn hw hp, ?_, rfl, rfl, rfl, rfl, rfl⟩,
    State.readReg_boot, ?_⟩
  · exact s.pop.readReg_powerOn
  · rw [State.reset_eq_boot]
    exact State.readReg_boot _ _ _

end Sys2Proof.Machine
